-- ==== Sys2Proof/Word.lean ====
section
/-! DEFINITION. The word types of the HG4218 and the number types that name its parts. -/

namespace Sys2Proof

/-- One byte of request, operation or store data. -/
abbrev Byte := BitVec 8

/-- One 32-bit management register or link word (10.7). -/
abbrev Word := BitVec 32

/-- A 40-bit system or memory address (R135, R151). -/
abbrev Address := BitVec 40

/-- A bus master, 0 to 15 (R135). -/
abbrev MasterNo := Fin 16

/-- A stream ring, 0 to 15. -/
abbrev RingNo := Fin 16

/-- A transaction entry, 0 to 63 (R140). -/
abbrev TxnNo := Fin 64

/-- A hold slot, 0 to 31 (R91). -/
abbrev SlotNo := Fin 32

/-- A memory operation id, 0 to 47 (R151). -/
abbrev OpId := Fin 48

/-- A request tag, 0 to 63, chosen by the master (R135). -/
abbrev Tag := BitVec 6

end Sys2Proof
end

