-- ==== Sys2Proof/Config.lean ====
section
/-! DEFINITION. What the part fixes as a size, and the free values: values the spec leaves open, which no
proof can see. -/

namespace Sys2Proof.Config

/-- The entries of a ring's fill scoreboard (R43) and of its drain scoreboard (R71). -/
def scoreboardSize : Nat := 12

/-- The entries of a ring's poison list (R111). -/
def poisonSize : Nat := 4

/-- The entries of the memory port's issue queue (R152). -/
def issueQueueSize : Nat := 16

/-- The records the event queue holds at most (R126). -/
def eventQueueSize : Nat := 32

/-- The bytes of a hold slot's store (R91). -/
def storeBytes : Nat := 256

/-- The longest request the part serves, in bytes (R135). -/
def longestRequest : Nat := 256

/-- The undelivered requests one master may have (R136). -/
def undeliveredLimit : Nat := 16

/-- The size of the system and memory address spaces, 2^40 bytes (R2). -/
def addressSpace : Nat := 2 ^ 40

/-- FREE VALUE (log entry 3). The byte with the given index that a link did not carry although its header
promised it: the spec says that a link carries exactly `length` bytes (R135, R151) and states no value for
a byte that is not there. The first argument is the model's own counter. -/
opaque missingByte : Nat → Nat → BitVec 8

/-- FREE VALUE (log entry 2). Whether the hold pool takes an advance of the tick count before the memory
port does, when both still have to take it as the next tick comes. The spec names both takers (R100, R158)
and no order between them. The argument is the model's own counter. -/
opaque poolTakesTickFirst : Nat → Bool

end Sys2Proof.Config
end

