-- ==== Sys2Proof/Syntax.lean ====
section
/-! DEFINITION. The commands of the HG4218: one constructor per row of spec/opcode_table.json, with the
operands the spec gives the event. -/

namespace Sys2Proof

/-- The direction of a request or of a memory operation (R135, R151). -/
inductive Direction where
  | read
  | write
  deriving DecidableEq, Repr

/-- A request as a master presents it on the system port's request link (R135). -/
structure Request where
  master    : MasterNo
  tag       : Tag
  direction : Direction
  address   : Address
  length    : BitVec 9
  data      : List Byte
  deriving DecidableEq, Repr

/-- The status of a response on the memory response link (R151). -/
inductive MemoryStatus where
  | ok
  | error
  deriving DecidableEq, Repr

/-- The four structural registers of a ring control block, offsets 00h to 0Ch (10.7). -/
inductive StructuralReg where
  | apertureBaseLow
  | highBytesAndExponents
  | memoryBaseLow
  | startOffset
  deriving DecidableEq, Repr

/-- The five live registers of a ring control block, offsets 10h to 20h (10.7). -/
inductive LiveReg where
  | producerConsumerMasks
  | observerPoliciesLineQuota
  | highMark
  | lowMark
  | timeoutKindMask
  deriving DecidableEq, Repr

/-- The two fill-side counters of a ring (R67). -/
inductive FillCounter where
  | discard
  | overtake
  deriving DecidableEq, Repr

/-- Where the STOP or repeated START that ends a write transaction falls (the table of R164). -/
inductive WriteStop where
  /-- Straight after the I2C address byte, with no register address byte. -/
  | noAddressByte
  /-- After one register address byte. -/
  | oneAddressByte (high : Byte)
  /-- After the two register address bytes, with no data. -/
  | noData
  /-- After one, two or three data bytes of a group. -/
  | insideGroup (bytes : List Byte)
  /-- After a complete group. -/
  | afterGroup
  deriving DecidableEq, Repr

/-- The four bytes of a complete data group of a write transaction, in the order in which they come (R164). -/
structure DataGroup where
  first  : Byte
  second : Byte
  third  : Byte
  fourth : Byte
  deriving DecidableEq, Repr

/-- The two register address bytes of a write transaction, in the order in which they come (R164). -/
structure AddressBytes where
  high : Byte
  low  : Byte
  deriving DecidableEq, Repr

/-- The commands: requests, memory responses, register accesses and pin events that come from outside the
part, and the events that its blocks take whole (the rows of spec/opcode_table.json). -/
inductive Instr where
  /-- HARDWARE_RESET (R173): RST_N rises, with the levels then on the pins ADDR1 and ADDR0. -/
  | hardwareReset (addr1 addr0 : Bool)
  /-- REQUEST_ACCEPTANCE (R137): the request at the front of its master's link is taken. -/
  | requestAcceptance (request : Request)
  /-- WRITE_ADMISSION (R45): the ring engine takes the oldest admission, a ring write's. -/
  | writeAdmission
  /-- READ_ADMISSION (R73): the ring engine takes the oldest admission, a ring read's. -/
  | readAdmission
  /-- RE_ADMISSION (R99): the head of the released list is admitted again. -/
  | reAdmission
  /-- ISSUE_HEAD (R154): the memory port considers the head of its issue queue. -/
  | issueHead
  /-- MEMORY_RESPONSE (R157): a response arrives on the memory response link. -/
  | memoryResponse (id : BitVec 6) (status : MemoryStatus) (data : List Byte)
  /-- DRAIN_END (R31): the drain-end test of a ring. -/
  | drainEnd (ring : RingNo)
  /-- CLEAR_END (R37): the clear-end test of a ring. -/
  | clearEnd (ring : RingNo)
  /-- TICK (R169): the given number of REFCLK cycles is counted by the timebase. -/
  | tick (cycles : Nat)
  /-- EXPIRY (R100): the hold pool takes the advance of the tick count. -/
  | expiry
  /-- RESPONSE_TIMEOUT (R158): the memory port takes the advance of the tick count. -/
  | responseTimeout
  /-- RESPONSE_DELIVERY (R146): the response link takes a response. -/
  | responseDelivery
  /-- ENABLE (R29): command code 1 is written to the ring's command register. -/
  | enable (ring : RingNo)
  /-- PAUSE (R30): command code 2. -/
  | pause (ring : RingNo)
  /-- RESUME (R32): command code 3. -/
  | resume (ring : RingNo)
  /-- HALT (R33): command code 4. -/
  | halt (ring : RingNo)
  /-- CLEAR (R36): command code 5. -/
  | clear (ring : RingNo)
  /-- APPLY_NOW (R38): command code 6. -/
  | applyNow (ring : RingNo)
  /-- SNAPSHOT (R39): command code 7. -/
  | snapshot (ring : RingNo)
  /-- UNDEFINED_COMMAND (R28): a code that names no command is written to the command register. -/
  | undefinedCommand (ring : RingNo) (code : BitVec 4)
  /-- STRUCTURAL_WRITE (R20): a complete write to a structural register. -/
  | structuralWrite (ring : RingNo) (reg : StructuralReg) (value : Word)
  /-- SHADOW_WRITE (R21): a complete write to a live register. -/
  | shadowWrite (ring : RingNo) (reg : LiveReg) (value : Word)
  /-- COUNTER_WRITE (R67): a complete write to the discard or overtake counter. -/
  | counterWrite (ring : RingNo) (counter : FillCounter) (value : Word)
  /-- LATE_COUNTER_WRITE (R102): a complete write to the late counter. -/
  | lateCounterWrite (ring : RingNo) (value : Word)
  /-- RESET_PART (R171): one is written to the RESET_PART field, zero to the lost flag. -/
  | resetPart
  /-- PART_RESET_COMPLETION (R172): the completion test of the part reset. -/
  | partResetCompletion
  /-- LOST_FLAG_CLEAR (R128): one is written to the lost flag, zero to the RESET_PART field. -/
  | lostFlagClear
  /-- EVENT_POP (R132): a complete write to the event pop register. -/
  | eventPop (value : Word)
  /-- ERROR_FLAGS_CLEAR (R167): a complete write to the error flags register. -/
  | errorFlagsClear (value : Word)
  /-- TICK_DIVIDER_WRITE (R169): a complete write to the tick divider register. -/
  | tickDividerWrite (value : Word)
  /-- MEMORY_TIMEOUT_WRITE (R170): a complete write to the memory timeout register. -/
  | memoryTimeoutWrite (value : Word)
  /-- LINE_ENABLE_WRITE (R130): a complete write to the line enables register. -/
  | lineEnableWrite (value : Word)
  /-- PASS_FAULT_ROUTING_WRITE (R170): a complete write to the PASS_FAULT routing register. -/
  | passFaultRoutingWrite (value : Word)
  /-- REGISTER_WRITE (R164, R166): a complete data group of a write transaction addressed to `target`, taken at
  the register that the pointer names. -/
  | registerWrite (target : BitVec 7) (value : DataGroup)
  /-- REGISTER_POINTER_SET (R164): the two register address bytes of a write transaction. -/
  | registerPointerSet (target : BitVec 7) (address : AddressBytes)
  /-- PARTIAL_WRITE_END (R164): the STOP or repeated START that ends a write transaction. -/
  | partialWriteEnd (target : BitVec 7) (stop : WriteStop)
  /-- HELD_IN_RESET (R173): RST_N falls; `cut` holds the bytes of an unfinished group or register address
  of the I2C transaction that the fall abandons. -/
  | heldInReset (cut : List Byte)
  /-- REGISTER_READ (R165): the controller takes `bytes` bytes, 1 to 4, of the register the pointer names. -/
  | registerRead (target : BitVec 7) (bytes : Nat)
  deriving DecidableEq, Repr

end Sys2Proof
end

