-- ==== Sys2Proof/WellFormed.lean ====
section
/-! DEFINITION. Which commands the outside can send: the checks that the links and the I2C framing make on a
command's operands. -/

namespace Sys2Proof

/-- R135: a write carries exactly `length` bytes, a read none. -/
def Request.WellFormed (q : Request) : Bool :=
  match q.direction with
  | .write => q.data.length == q.length.toNat
  | .read => q.data.isEmpty

/-- R164: a partial group has one, two or three bytes. -/
def WriteStop.WellFormed : WriteStop → Bool
  | .insideGroup bytes => 1 ≤ bytes.length && bytes.length ≤ 3
  | .noAddressByte | .oneAddressByte _ | .noData | .afterGroup => true

/-- The command is one that the part's links and pins can carry. -/
def Instr.WellFormed : Instr → Bool
  | .requestAcceptance q => q.WellFormed
  -- R151: at most 256 bytes answer an operation, and only an OK response carries data.
  | .memoryResponse _ .ok data => data.length ≤ Config.longestRequest
  | .memoryResponse _ .error data => data.isEmpty
  -- R28, 10.7: codes 1 to 7 name commands, which have rows of their own.
  | .undefinedCommand _ code => code == 0 || 8 ≤ code.toNat
  | .partialWriteEnd _ stop => stop.WellFormed
  -- R164: what is unfinished is one register address byte or one to three data bytes, or nothing.
  | .heldInReset cut => cut.length ≤ 3
  | .registerRead _ bytes => 1 ≤ bytes && bytes ≤ 4
  | .hardwareReset _ _ | .writeAdmission | .readAdmission | .reAdmission | .issueHead
  | .drainEnd _ | .clearEnd _ | .tick _ | .expiry | .responseTimeout | .responseDelivery
  | .enable _ | .pause _ | .resume _ | .halt _ | .clear _ | .applyNow _ | .snapshot _
  | .structuralWrite _ _ _ | .shadowWrite _ _ _ | .counterWrite _ _ _ | .lateCounterWrite _ _
  | .resetPart | .partResetCompletion | .lostFlagClear | .eventPop _ | .errorFlagsClear _
  | .tickDividerWrite _ | .memoryTimeoutWrite _ | .lineEnableWrite _ | .passFaultRoutingWrite _
  | .registerWrite _ _ | .registerPointerSet _ _ => true

end Sys2Proof
end

