-- ==== Sys2Proof/Machine/State.lean ====
section
/-! DEFINITION. The state of the HG4218, block by block as the spec divides it, the reasons a step can stop, and
the state right after a hardware reset. Plain data throughout. -/

namespace Sys2Proof.Machine

/-! ## Names the spec prints in capitals -/

/-- The six ring states (R27). -/
inductive RingState where
  | off | active | draining | paused | halted | clearing
  deriving DecidableEq, Repr

/-- The part states (R168, R171). -/
inductive PartState where
  | running | resetting
  deriving DecidableEq, Repr

/-- The two sides of a level monitor (R121). -/
inductive Side where
  | low | high
  deriving DecidableEq, Repr

inductive OverrunPolicy where
  | block | discard | overtake
  deriving DecidableEq, Repr

inductive UnderrunPolicy where
  | wait | empty
  deriving DecidableEq, Repr

/-- The state of a scoreboard entry (R43, R71); a drain entry is never VOID. -/
inductive EntryState where
  | inFlight | landed | void
  deriving DecidableEq, Repr

/-- The reason of a hold entry (R92). -/
inductive HoldReason where
  | underrun | room
  deriving DecidableEq, Repr

/-- The state of a hold entry (R92). -/
inductive HoldState where
  | waiting | released
  deriving DecidableEq, Repr

/-- The stages of a transaction entry that holds a request (R141). -/
inductive Stage where
  | accepted | held | queued | outstanding | ready
  deriving DecidableEq, Repr

/-- The class field of a transaction entry (R140). -/
inductive RequestClass where
  | pass | ringWrite | consume | peek | reject
  deriving DecidableEq, Repr

/-- The response statuses, in the order of their codes 0 to 14 (R145). -/
inductive Status where
  | done | discarded | empty | late | stale | range | overlap | refused | busy | poisoned
  | fault | halted | stopped | aborted | protocol
  deriving DecidableEq, Repr

/-- The event kinds, in the order of their codes 1 to 9 (R124). -/
inductive EventKind where
  | filled | drained | overtaken | poisoned | halted | applied | paused | cleared | passFault
  deriving DecidableEq, Repr

/-- The reasons of REFUSED_CONFIG, in the order of their codes 1 to 7 (R26, 10.7). -/
inductive ConfigReason where
  | align | size | aperture | span | marks | timeout | quota
  deriving DecidableEq, Repr

/-- The outcome part of a ring's command status (R28); the busy indication follows the ring state. -/
inductive CommandOutcome where
  | accepted
  | refusedState
  | refusedConfig (reason : ConfigReason)
  deriving DecidableEq, Repr

/-! ## Rings -/

/-- An extent [start, stop) of stream positions (R9). -/
structure Extent where
  start : Nat
  stop  : Nat
  deriving DecidableEq, Repr

/-- The structural fields of a descriptor (2.1). -/
structure Structural where
  apertureBase     : Address
  apertureExponent : BitVec 5
  memoryBase       : Address
  capacityExponent : BitVec 5
  startOffset      : BitVec 32
  deriving DecidableEq, Repr

/-- The live fields of a descriptor (2.1). -/
structure Live where
  producerMask : BitVec 16
  consumerMask : BitVec 16
  observerMask : BitVec 16
  overrun      : OverrunPolicy
  underrun     : UnderrunPolicy
  highMark     : BitVec 25
  lowMark      : BitVec 25
  holdTimeout  : BitVec 16
  holdQuota    : BitVec 6
  eventLine    : BitVec 2
  /-- Bit `code - 1` is the flag of the kind with that code, for codes 1 to 8 (10.7). -/
  kindMask     : BitVec 8
  deriving DecidableEq, Repr

/-- An entry of a fill or drain scoreboard (R43, R71). -/
structure ScoreEntry where
  extent       : Extent
  state        : EntryState
  transactions : List TxnNo
  deriving DecidableEq, Repr

/-- The snapshot registers of a ring (R39). -/
structure Snapshot where
  D          : Nat
  F          : Nat
  W          : Nat
  K          : Nat
  level      : Nat
  side       : Side
  fillCount  : Nat
  drainCount : Nat
  heldCount  : Nat
  pending    : Bool
  state      : RingState
  deriving DecidableEq, Repr

/-- What the ring engine and the level monitor hold for one ring. -/
structure Ring where
  /-- The structural fields (R19, R20). -/
  structural : Structural
  /-- The active set of live fields (R19). -/
  active     : Live
  /-- The shadow set of live fields (R19). -/
  shadow     : Live
  /-- The pending flag (R19). -/
  pending    : Bool
  /-- The ring state (R27). -/
  state      : RingState
  /-- The outcome in the command status (R28). -/
  outcome    : CommandOutcome
  /-- The drain frontier (R14, R72). -/
  D : Nat
  /-- The fill frontier (R14, R62). -/
  F : Nat
  /-- The write reach (R14, R44). -/
  W : Nat
  /-- The keep floor (R14, R44). -/
  K : Nat
  /-- The fill scoreboard, sorted from F (R43). -/
  fill   : List ScoreEntry
  /-- The drain scoreboard, sorted from D (R71). -/
  drain  : List ScoreEntry
  /-- The poison list, sorted from K (R111). -/
  poison : List Extent
  /-- The discard counter (R67). -/
  discardCount  : BitVec 16
  /-- The overtake counter (R67). -/
  overtakeCount : BitVec 16
  /-- The late counter (R102). -/
  lateCount     : BitVec 16
  /-- The level monitor's side (R121). -/
  side     : Side
  /-- The snapshot registers (R39). -/
  snapshot : Snapshot
  deriving DecidableEq, Repr

/-! ## The hold pool -/

/-- A hold entry (R92). Its place in `HoldPool.entries` is its grant order, and a held write's data are in
its slot's store. -/
structure HoldEntry where
  slot        : SlotNo
  transaction : TxnNo
  ring        : RingNo
  reason      : HoldReason
  deadline    : BitVec 32
  state       : HoldState
  deriving DecidableEq, Repr

/-- The hold pool (R91, R93). A slot is occupied when an entry names it; the hold list of a ring is the
sublist of `entries` with that ring. -/
structure HoldPool where
  /-- The hold entries in the pool-wide order of grants, oldest first. -/
  entries  : List HoldEntry
  /-- The slots of the RELEASED entries in the order of release, oldest first. -/
  released : List SlotNo
  /-- The 256-byte stores of the slots. -/
  stores   : Vector (List Byte) 32
  deriving DecidableEq, Repr

/-! ## The system port and the transaction table -/

/-- The end result of a part (R140). -/
inductive PartResult where
  | pending | ok | failed
  deriving DecidableEq, Repr

/-- A part of a request (R13, R140); `data` holds what an OK read part returned. -/
structure Part where
  memAddress : Nat
  length     : Nat
  /-- The stream range; absent for a pass-through request. -/
  range      : Option Extent
  result     : PartResult
  data       : List Byte
  deriving DecidableEq, Repr

/-- A transaction entry that holds a request (R140). -/
structure Txn where
  master      : MasterNo
  tag         : Tag
  direction   : Direction
  address     : Address
  length      : Nat
  cls         : Option RequestClass
  ring        : Option RingNo
  range       : Option Extent
  cleared     : Bool
  parts       : List Part
  outstanding : Nat
  /-- A write's bytes until they are handed over; from READY, the response's bytes. -/
  data        : List Byte
  stage       : Stage
  status      : Option Status
  deriving DecidableEq, Repr

/-- A response on the system port's response link (R135). -/
structure Response where
  master : MasterNo
  tag    : Tag
  status : Status
  data   : List Byte
  deriving DecidableEq, Repr

structure SystemPort where
  /-- The 64 transaction entries; `none` is a free entry (R140). -/
  table       : Vector (Option Txn) 64
  /-- The undelivered count of each master (R147). -/
  undelivered : Vector Nat 16
  /-- The READY entries, oldest readiness first (R146). -/
  readyOrder  : List TxnNo
  /-- What the response link carries: the response last delivered (R146). -/
  link        : Option Response
  deriving DecidableEq, Repr

/-! ## The memory port -/

/-- Which part of its request an operation is (R152). -/
inductive PartNo where
  | first | second
  deriving DecidableEq, Repr

/-- The class of an operation (R152). -/
inductive OpClass where
  | passThrough | ring
  deriving DecidableEq, Repr

/-- An operation record of the issue queue (R152). -/
structure Operation where
  transaction : TxnNo
  part        : PartNo
  cls         : OpClass
  direction   : Direction
  address     : Nat
  length      : Nat
  data        : List Byte
  deriving DecidableEq, Repr

/-- The two conditions of an outstanding operation (R156). -/
inductive OpCondition where
  | live | orphan
  deriving DecidableEq, Repr

/-- An outstanding operation, recorded under its id (R156). -/
structure Outstanding where
  id          : OpId
  transaction : TxnNo
  part        : PartNo
  direction   : Direction
  address     : Nat
  length      : Nat
  deadline    : BitVec 32
  condition   : OpCondition
  deriving DecidableEq, Repr

/-- An operation on the memory operation link (R151). -/
structure LinkOperation where
  id        : OpId
  direction : Direction
  address   : Nat
  length    : Nat
  data      : List Byte
  deriving DecidableEq, Repr

structure MemoryPort where
  /-- The issue queue, head first (R152). -/
  queue       : List Operation
  /-- The operations that hold an id, in the order of their issue, oldest first (R156, R158). -/
  outstanding : List Outstanding
  /-- What the memory operation link carries: the operation last issued (R156). -/
  link        : Option LinkOperation
  deriving DecidableEq, Repr

/-! ## The event queue -/

/-- The count field of an event record (R124). -/
inductive EventCount where
  | absent
  /-- Bytes overtaken, or the length of a VOID extent. -/
  | bytes (n : Nat)
  /-- The master and tag of a failed pass-through request. -/
  | source (master : MasterNo) (tag : Tag)
  deriving DecidableEq, Repr

/-- An event record (R124). -/
structure EventRecord where
  sequence  : BitVec 8
  kind      : EventKind
  ring      : Option RingNo
  line      : BitVec 2
  afterLoss : Bool
  position  : Option Nat
  count     : EventCount
  deriving DecidableEq, Repr

/-- The event queue (R126 to R128) and the four event lines it drives (R130). -/
structure EventQueue where
  /-- The stored records, oldest at the head. -/
  records       : List EventRecord
  /-- The sequence counter. -/
  nextSequence  : BitVec 8
  lost          : Bool
  markerPending : Bool
  /-- The pins EVT0 to EVT3; bit n is line n, 1 when asserted. -/
  lines         : BitVec 4
  deriving DecidableEq, Repr

/-! ## The management port and the timebase -/

/-- The four flags of the error flags register (R167). -/
structure ErrorFlags where
  addr        : Bool
  locked      : Bool
  partialEnd  : Bool
  popMismatch : Bool
  deriving DecidableEq, Repr

structure Management where
  /-- The 7-bit I2C address sampled at the release of RST_N (R163). -/
  i2cAddress      : BitVec 7
  /-- The register pointer (R163). -/
  pointer         : BitVec 16
  /-- SDA's answer to the last transaction on the bus: whether the part acknowledged (R163). -/
  acknowledged    : Bool
  /-- The bytes the part last returned on SDA (R165). -/
  returned        : List Byte
  flags           : ErrorFlags
  /-- The memory timeout setting (R170). -/
  memoryTimeout   : BitVec 16
  /-- The line enables; bit n is line n (R130). -/
  lineEnables     : BitVec 4
  /-- The PASS_FAULT record enable (R170). -/
  passFaultEnable : Bool
  /-- The PASS_FAULT event line (R170). -/
  passFaultLine   : BitVec 2
  deriving DecidableEq, Repr

/-- The timebase (R169). -/
structure Timebase where
  /-- The divider as last written. -/
  divider         : BitVec 10
  /-- The divider in force when the interval in progress began. -/
  intervalDivider : BitVec 10
  /-- The REFCLK cycles counted since the last tick. -/
  cycles          : Nat
  /-- The tick count. -/
  count           : BitVec 32
  deriving DecidableEq, Repr

/-! ## The whole part -/

structure State where
  /-- RST_N is low (R173). -/
  inReset   : Bool
  /-- The part state (R168). -/
  part      : PartState
  mgmt      : Management
  time      : Timebase
  rings     : Vector Ring 16
  /-- The ring requests handed to the ring engine whose admission is not yet taken, in the order of their
  acceptance (R3). Each of them holds two reserved entries of the issue queue (R137). -/
  awaiting  : List TxnNo
  pool      : HoldPool
  sys       : SystemPort
  mem       : MemoryPort
  events    : EventQueue
  /-- The model's own counter of the free values used so far (log entries 2 and 3). -/
  freeCount : Nat
  /-- The commands that are waiting, first in, first out. -/
  pending   : List Instr
  deriving DecidableEq, Repr

/-- The reasons a step can stop with a fault: none. Every event of the spec leaves the part in a next state
(log entry 13). -/
inductive Fault where
  deriving DecidableEq, Repr

/-- The reasons a step can refuse a command. -/
inductive Refusal where
  /-- Raised by `exec` alone, for a command that has no meaning in this model yet; safe. No arm raises it. -/
  | notModelled (mnemonic : String)
  deriving DecidableEq, Repr

/-! ## Reset values -/

/-- R41. -/
def Structural.reset : Structural where
  apertureBase := 0
  apertureExponent := 0
  memoryBase := 0
  capacityExponent := 0
  startOffset := 0

/-- R41: masks empty, BLOCK, WAIT, every other field 0, the kind mask all ring kinds. -/
def Live.reset : Live where
  producerMask := 0
  consumerMask := 0
  observerMask := 0
  overrun := .block
  underrun := .wait
  highMark := 0
  lowMark := 0
  holdTimeout := 0
  holdQuota := 0
  eventLine := 0
  kindMask := 0xFF#8

/-- R39: the snapshot registers read 0, with state OFF and side LOW_SIDE. -/
def Snapshot.reset : Snapshot where
  D := 0
  F := 0
  W := 0
  K := 0
  level := 0
  side := .low
  fillCount := 0
  drainCount := 0
  heldCount := 0
  pending := false
  state := .off

/-- R14, R41, R67, R102, R121. -/
def Ring.reset : Ring where
  structural := .reset
  active := .reset
  shadow := .reset
  pending := false
  state := .off
  outcome := .accepted
  D := 0
  F := 0
  W := 0
  K := 0
  fill := []
  drain := []
  poison := []
  discardCount := 0
  overtakeCount := 0
  lateCount := 0
  side := .low
  snapshot := .reset

/-- R107. The stores' content has no meaning after a hardware reset; zeros are this model's choice
(log entry 4). -/
def HoldPool.reset : HoldPool where
  entries := []
  released := []
  stores := Vector.replicate 32 (List.replicate Config.storeBytes 0)

/-- R149. -/
def SystemPort.reset : SystemPort where
  table := Vector.replicate 64 none
  undelivered := Vector.replicate 16 0
  readyOrder := []
  link := none

/-- R162. -/
def MemoryPort.reset : MemoryPort where
  queue := []
  outstanding := []
  link := none

/-- R134. -/
def EventQueue.reset : EventQueue where
  records := []
  nextSequence := 0
  lost := false
  markerPending := false
  lines := 0

/-- R163, R167, R170. The I2C address is the one that both address pins low give (log entry 5). -/
def Management.reset : Management where
  i2cAddress := 0x58
  pointer := 0
  acknowledged := false
  returned := []
  flags := { addr := false, locked := false, partialEnd := false, popMismatch := false }
  memoryTimeout := 1000
  lineEnables := 0
  passFaultEnable := true
  passFaultLine := 0

/-- R169: the divider is 99, the tick count 0, and the first interval begins. -/
def Timebase.reset : Timebase where
  divider := 99
  intervalDivider := 99
  cycles := 0
  count := 0

/-- The part right after the rise of RST_N (R173). -/
def State.reset : State where
  inReset := false
  part := .running
  mgmt := .reset
  time := .reset
  rings := Vector.replicate 16 .reset
  awaiting := []
  pool := .reset
  sys := .reset
  mem := .reset
  events := .reset
  freeCount := 0
  pending := []

end Sys2Proof.Machine
end

