-- ==== Sys2Proof/Machine/Position.lean ====
section
/-! DEFINITION. Stream positions, signed distance, extents, the fold and the lap boundary (chapter 1). Positions are
numbers from 0 to A - 1; every function takes the aperture size A of its ring. -/

namespace Sys2Proof.Machine

/-- The aperture size A in bytes, 2 raised to its exponent (2.1). -/
def Structural.apertureSize (c : Structural) : Nat := 2 ^ c.apertureExponent.toNat

/-- The capacity C in bytes, 2 raised to its exponent (2.1). -/
def Structural.capacity (c : Structural) : Nat := 2 ^ c.capacityExponent.toNat

/-- The distance (y - x) mod A (R9). -/
def distance (A x y : Nat) : Nat := (y + (A - x % A)) % A

/-- The signed distance from x to y: the value in [-A/2, A/2) congruent to y - x modulo A (R8). -/
def signedDistance (A x y : Nat) : Int :=
  if 2 * distance A x y < A then (distance A x y : Int) else (distance A x y : Int) - A

/-- y is behind x (R8). -/
abbrev IsBehind (A x y : Nat) : Prop := signedDistance A x y < 0

/-- y is at or ahead of x (R8). -/
abbrev IsAtOrAhead (A x y : Nat) : Prop := 0 ≤ signedDistance A x y

/-- y is beyond x (R8). -/
abbrev IsBeyond (A x y : Nat) : Prop := 0 < signedDistance A x y

/-- The position n bytes after x (R8). -/
def positionAfter (A x n : Nat) : Nat := (x + n) % A

/-- The position n bytes before x (R8). -/
def positionBefore (A x n : Nat) : Nat := (x + (A - n % A)) % A

/-- The length of an extent (R9). -/
def Extent.length (A : Nat) (e : Extent) : Nat := distance A e.start e.stop

/-- The position p lies in the extent (R9). -/
abbrev Extent.Has (A : Nat) (e : Extent) (p : Nat) : Prop := distance A e.start p < e.length A

/-- Two non-empty extents intersect: some position lies in both (R9). On a circle of positions that is so
exactly when the start of one lies in the other. -/
abbrev Extent.Intersects (A : Nat) (e f : Extent) : Prop :=
  0 < e.length A ∧ 0 < f.length A ∧ (e.Has A f.start ∨ f.Has A e.start)

/-- Two byte ranges, given by first byte and length, share a byte. -/
abbrev RangesMeet (a n b m : Nat) : Prop := max a b < min (a + n) (b + m)

/-- Every byte of the first range lies in the second. -/
abbrev RangeWithin (a n b m : Nat) : Prop := b ≤ a ∧ a + n ≤ b + m

/-- The stream range of a ring request with start s and length n (R10). -/
def streamRange (A s n : Nat) : Extent := ⟨s, positionAfter A s n⟩

/-- The fold of a stream position (R11). -/
def foldAddress (c : Structural) (p : Nat) : Nat := c.memoryBase.toNat + p % c.capacity

/-- The memory parts of a ring request with start s and length n (the table of R12). -/
def foldParts (c : Structural) (s n : Nat) : List Part :=
  let A := c.apertureSize
  let C := c.capacity
  let r := s % C
  if r + n ≤ C then
    [{ memAddress := foldAddress c s, length := n, range := some (streamRange A s n),
       result := .pending, data := [] }]
  else
    [{ memAddress := foldAddress c s, length := C - r, range := some (streamRange A s (C - r)),
       result := .pending, data := [] },
     { memAddress := c.memoryBase.toNat, length := n - (C - r),
       range := some ⟨positionAfter A s (C - r), positionAfter A s n⟩, result := .pending, data := [] }]

/-- An advance of F from f0 to f1 is a lap boundary: some q in (f0, f1] has q mod C = 0 (R16). -/
abbrev IsLapBoundary (c : Structural) (f0 f1 : Nat) : Prop :=
  c.capacity ≤ f0 % c.capacity + distance c.apertureSize f0 f1

/-- The level of a ring, the distance from D to F (R15). In a ring not OFF it is the signed distance. In OFF, once the
aperture size exponent was rewritten, it is the unsigned distance under the present exponent, the model's choice (log
entry 27). -/
def Ring.level (r : Ring) : Nat := distance r.structural.apertureSize r.D r.F

/-- The position beyond which a write's end needs the overrun policy: D + C (R15). -/
def Ring.roomEnd (r : Ring) : Nat := positionAfter r.structural.apertureSize r.D r.structural.capacity

/-- A write's end e lies beyond D + C (R45, check 5). -/
abbrev Ring.BeyondRoom (r : Ring) (e : Nat) : Prop :=
  IsBeyond r.structural.apertureSize r.roomEnd e

/-- A read's end e lies beyond F (R73, check 5). -/
abbrev Ring.BeyondFill (r : Ring) (e : Nat) : Prop :=
  IsBeyond r.structural.apertureSize r.F e

end Sys2Proof.Machine
end

