-- ==== Sys2Proof/Machine/Flags.lean ====
section
/-! DEFINITION. The flags and indications: the error flags (R167), the event lines (R130), the event queue with its
lost flag and after-loss marker (R125 to R132), the busy indication (R28), the level monitor (R122). -/

namespace Sys2Proof.Machine

/-! ## Error flags -/

def State.setFlags (s : State) (f : ErrorFlags) : State := { s with mgmt := { s.mgmt with flags := f } }

/-- R167: a complete write to an unmapped or read-only address. -/
def State.setAddrFlag (s : State) : State := s.setFlags { s.mgmt.flags with addr := true }

/-- R167: a write to a structural field of a ring not OFF, or to a ring control block while RESETTING. -/
def State.setLockedFlag (s : State) : State := s.setFlags { s.mgmt.flags with locked := true }

/-- R167: a write transaction ended after one register address byte or inside a data group. -/
def State.setPartialFlag (s : State) : State := s.setFlags { s.mgmt.flags with partialEnd := true }

/-- R132: a pop that names another sequence than the head's, or that finds the queue empty. -/
def State.setPopMismatchFlag (s : State) : State := s.setFlags { s.mgmt.flags with popMismatch := true }

/-- R166: each flag written as one is cleared; flags written as zero are unchanged. -/
def ErrorFlags.clear (f : ErrorFlags) (value : Word) : ErrorFlags where
  addr := f.addr && !value.getLsbD 0
  locked := f.locked && !value.getLsbD 1
  partialEnd := f.partialEnd && !value.getLsbD 2
  popMismatch := f.popMismatch && !value.getLsbD 3

/-! ## Ring indications -/

/-- The busy indication is set in DRAINING and CLEARING (R28). -/
def RingState.busy : RingState → Bool
  | .draining | .clearing => true
  | .off | .active | .paused | .halted => false

/-- R67, R102: a 16-bit count that stays at FFFFh. -/
def countUp (c : BitVec 16) : BitVec 16 := if c = 0xFFFF then c else c + 1

/-! ## Event lines and event records -/

/-- The kind code of a record (R124). -/
def EventKind.code : EventKind → Nat
  | .filled => 1
  | .drained => 2
  | .overtaken => 3
  | .poisoned => 4
  | .halted => 5
  | .applied => 6
  | .paused => 7
  | .cleared => 8
  | .passFault => 9

/-- Line n is asserted while the queue holds a record routed to it and the line is enabled (R130). -/
def lineLevel (records : List EventRecord) (enables : BitVec 4) (n : Nat) : Bool :=
  enables.getLsbD n && records.any fun r => r.line.toNat == n

/-- The levels of EVT3 to EVT0 (R130). -/
def lineLevels (records : List EventRecord) (enables : BitVec 4) : BitVec 4 :=
  BitVec.ofBool (lineLevel records enables 3) ++ BitVec.ofBool (lineLevel records enables 2)
    ++ BitVec.ofBool (lineLevel records enables 1) ++ BitVec.ofBool (lineLevel records enables 0)

/-- The lines are re-evaluated (R130). -/
def State.refreshLines (s : State) : State :=
  { s with events := { s.events with lines := lineLevels s.events.records s.mgmt.lineEnables } }

/-- An offered record is stored at the tail with the next sequence number, or lost to a full queue (R127). -/
def State.offer (s : State) (kind : EventKind) (ring : Option RingNo) (line : BitVec 2)
    (position : Option Nat) (count : EventCount) : State :=
  if s.events.records.length < Config.eventQueueSize then
    let record : EventRecord := {
      sequence := s.events.nextSequence
      kind := kind
      ring := ring
      line := line
      afterLoss := s.events.markerPending
      position := position
      count := count }
    State.refreshLines { s with events := { s.events with
      records := s.events.records ++ [record]
      nextSequence := s.events.nextSequence + 1
      markerPending := false } }
  else
    { s with events := { s.events with lost := true, markerPending := true } }

/-- A pop request: the head is removed when the written sequence is its own, and POP_MISMATCH is set
otherwise (R132). -/
def State.popEvent (s : State) (value : Word) : State :=
  match s.events.records with
  | [] => s.setPopMismatchFlag
  | head :: rest =>
    if head.sequence = value.extractLsb' 0 8 then
      State.refreshLines { s with events := { s.events with records := rest } }
    else s.setPopMismatchFlag

/-- Every record is removed and the sequence counter restarts (R134). -/
def State.emptyEvents (s : State) : State :=
  State.refreshLines { s with events := { s.events with
    records := [], nextSequence := 0, lost := false, markerPending := false } }

/-! ## Rings in the state, events of a ring, the level monitor -/

def State.ring (s : State) (r : RingNo) : Ring := s.rings[r.val]

def State.setRing (s : State) (r : RingNo) (x : Ring) : State := { s with rings := s.rings.set r.val x }

/-- The active kind mask of the ring includes the kind (R125). -/
def Live.includesKind (l : Live) (k : EventKind) : Bool := l.kindMask.getLsbD (k.code - 1)

/-- An event of a ring is raised: it is offered when the active kind mask includes its kind (R125). -/
def State.raise (s : State) (r : RingNo) (kind : EventKind) (position : Option Nat)
    (count : EventCount) : State :=
  if (s.ring r).active.includesKind kind then
    s.offer kind (some r) (s.ring r).active.eventLine position count
  else s

/-- One evaluation of the ring's level monitor (the table of R122). -/
def State.evaluateLevel (s : State) (r : RingNo) : State :=
  let x := s.ring r
  match x.side with
  | .low =>
    if x.active.highMark.toNat ≤ x.level then
      (s.setRing r { x with side := .high }).raise r .filled (some x.F) .absent
    else s
  | .high =>
    if x.level ≤ x.active.lowMark.toNat then
      (s.setRing r { x with side := .low }).raise r .drained (some x.D) .absent
    else s

end Sys2Proof.Machine
end

