-- ==== Sys2Proof/Machine/Operands.lean ====
section
/-! DEFINITION. The operand forms of the management port: the register map, and the fields of every register as 32-bit
words, read and written (10.7). -/

namespace Sys2Proof.Machine

/-! ## The register map -/

/-- The registers of a ring status block (10.7). -/
inductive StatusReg where
  | snapshotD | snapshotF | snapshotW | snapshotK
  | levelSideState | counts | poisonCount
  | poisonStart (i : Fin 4)
  | poisonLength (i : Fin 4)
  deriving DecidableEq, Repr

/-- What a register address names (10.7). -/
inductive Reg where
  | identification | control | divider | memoryTimeout | lineEnables | passFault | tickCount | occupancy
  | eventHead0 | eventHead1 | eventPop | errorFlags
  | structural (ring : RingNo) (reg : StructuralReg)
  | live (ring : RingNo) (reg : LiveReg)
  | command (ring : RingNo)
  | fillCounter (ring : RingNo) (counter : FillCounter)
  | lateCounter (ring : RingNo)
  | status (ring : RingNo) (reg : StatusReg)
  | unmapped
  deriving DecidableEq, Repr

/-- The global registers, by their address divided by 4. -/
def Reg.ofGlobalIndex : Nat → Reg
  | 0 => .identification
  | 1 => .control
  | 2 => .divider
  | 3 => .memoryTimeout
  | 4 => .lineEnables
  | 5 => .passFault
  | 6 => .tickCount
  | 7 => .occupancy
  | 8 => .eventHead0
  | 9 => .eventHead1
  | 10 => .eventPop
  | 11 => .errorFlags
  | _ => .unmapped

/-- A ring control block's registers, by their offset divided by 4. -/
def Reg.ofControlIndex (r : RingNo) : Nat → Reg
  | 0 => .structural r .apertureBaseLow
  | 1 => .structural r .highBytesAndExponents
  | 2 => .structural r .memoryBaseLow
  | 3 => .structural r .startOffset
  | 4 => .live r .producerConsumerMasks
  | 5 => .live r .observerPoliciesLineQuota
  | 6 => .live r .highMark
  | 7 => .live r .lowMark
  | 8 => .live r .timeoutKindMask
  | 9 => .command r
  | 10 => .fillCounter r .discard
  | 11 => .fillCounter r .overtake
  | 12 => .lateCounter r
  | _ => .unmapped

/-- A ring status block's registers, by their offset divided by 4. -/
def Reg.ofStatusIndex (r : RingNo) : Nat → Reg
  | 0 => .status r .snapshotD
  | 1 => .status r .snapshotF
  | 2 => .status r .snapshotW
  | 3 => .status r .snapshotK
  | 4 => .status r .levelSideState
  | 5 => .status r .counts
  | 6 => .status r .poisonCount
  | 7 => .status r (.poisonStart 0)
  | 8 => .status r (.poisonLength 0)
  | 9 => .status r (.poisonStart 1)
  | 10 => .status r (.poisonLength 1)
  | 11 => .status r (.poisonStart 2)
  | 12 => .status r (.poisonLength 2)
  | 13 => .status r (.poisonStart 3)
  | 14 => .status r (.poisonLength 3)
  | _ => .unmapped

/-- The register that an address names; its two low bits are ignored (R163). -/
def Reg.ofAddress (a : BitVec 16) : Reg :=
  let i := a.toNat / 4
  if i < 0x40 then .ofGlobalIndex i
  else if i < 0x140 then
    .ofControlIndex (Fin.ofNat 16 ((i - 0x40) / 16)) ((i - 0x40) % 16)
  else if i < 0x240 then
    .ofStatusIndex (Fin.ofNat 16 ((i - 0x140) / 16)) ((i - 0x140) % 16)
  else .unmapped

/-- The address of the register at an offset of a ring control block. -/
def controlAddress (r : RingNo) (offset : Nat) : BitVec 16 := BitVec.ofNat 16 (0x100 + r.val * 0x40 + offset)

/-- The address of the register at an offset of a ring status block. -/
def statusAddress (r : RingNo) (offset : Nat) : BitVec 16 := BitVec.ofNat 16 (0x500 + r.val * 0x40 + offset)

def structuralOffset : StructuralReg → Nat
  | .apertureBaseLow => 0x00
  | .highBytesAndExponents => 0x04
  | .memoryBaseLow => 0x08
  | .startOffset => 0x0C

def liveOffset : LiveReg → Nat
  | .producerConsumerMasks => 0x10
  | .observerPoliciesLineQuota => 0x14
  | .highMark => 0x18
  | .lowMark => 0x1C
  | .timeoutKindMask => 0x20

def counterOffset : FillCounter → Nat
  | .discard => 0x28
  | .overtake => 0x2C

def StatusReg.offset : StatusReg → Nat
  | .snapshotD => 0x00
  | .snapshotF => 0x04
  | .snapshotW => 0x08
  | .snapshotK => 0x0C
  | .levelSideState => 0x10
  | .counts => 0x14
  | .poisonCount => 0x18
  | .poisonStart i => 0x1C + 8 * i.val
  | .poisonLength i => 0x20 + 8 * i.val

/-- The address of a register (10.7); `unmapped` names no register, and FFFCh stands for it. -/
def Reg.address : Reg → BitVec 16
  | .identification => 0x000
  | .control => 0x004
  | .divider => 0x008
  | .memoryTimeout => 0x00C
  | .lineEnables => 0x010
  | .passFault => 0x014
  | .tickCount => 0x018
  | .occupancy => 0x01C
  | .eventHead0 => 0x020
  | .eventHead1 => 0x024
  | .eventPop => 0x028
  | .errorFlags => 0x02C
  | .structural r reg => controlAddress r (structuralOffset reg)
  | .live r reg => controlAddress r (liveOffset reg)
  | .command r => controlAddress r 0x24
  | .fillCounter r c => controlAddress r (counterOffset c)
  | .lateCounter r => controlAddress r 0x30
  | .status r reg => statusAddress r reg.offset
  | .unmapped => 0xFFFC

/-- The two low bits of a register address are ignored, so a pointer always names a register (R163). -/
def alignPointer (a : BitVec 16) : BitVec 16 := a.extractLsb' 2 14 ++ 0#2

/-- The register address that the first two bytes of a write transaction make, high byte first (R164). -/
def registerAddress (bytes : AddressBytes) : BitVec 16 := bytes.high ++ bytes.low

/-! ## Written words -/

def OverrunPolicy.ofCode (code : BitVec 2) : OverrunPolicy :=
  if code = 1 then .discard else if code = 2 then .overtake else .block

def OverrunPolicy.code : OverrunPolicy → BitVec 2
  | .block => 0
  | .discard => 1
  | .overtake => 2

def UnderrunPolicy.ofCode (code : BitVec 1) : UnderrunPolicy := if code = 1 then .empty else .wait

def UnderrunPolicy.code : UnderrunPolicy → BitVec 1
  | .wait => 0
  | .empty => 1

/-- The structural fields after a write of one structural register: every field of it, taken at once. -/
def Structural.write (c : Structural) (reg : StructuralReg) (value : Word) : Structural :=
  match reg with
  | .apertureBaseLow => { c with apertureBase := c.apertureBase.extractLsb' 32 8 ++ value }
  | .highBytesAndExponents =>
    { c with
      apertureBase := value.extractLsb' 0 8 ++ c.apertureBase.extractLsb' 0 32
      memoryBase := value.extractLsb' 8 8 ++ c.memoryBase.extractLsb' 0 32
      apertureExponent := value.extractLsb' 16 5
      capacityExponent := value.extractLsb' 24 5 }
  | .memoryBaseLow => { c with memoryBase := c.memoryBase.extractLsb' 32 8 ++ value }
  | .startOffset => { c with startOffset := value }

/-- The live fields after a write of one live register; overrun policy code 3 is stored as BLOCK (R21). -/
def Live.write (l : Live) (reg : LiveReg) (value : Word) : Live :=
  match reg with
  | .producerConsumerMasks =>
    { l with producerMask := value.extractLsb' 0 16, consumerMask := value.extractLsb' 16 16 }
  | .observerPoliciesLineQuota =>
    { l with
      observerMask := value.extractLsb' 0 16
      overrun := .ofCode (value.extractLsb' 16 2)
      underrun := .ofCode (value.extractLsb' 18 1)
      eventLine := value.extractLsb' 20 2
      holdQuota := value.extractLsb' 24 6 }
  | .highMark => { l with highMark := value.extractLsb' 0 25 }
  | .lowMark => { l with lowMark := value.extractLsb' 0 25 }
  | .timeoutKindMask =>
    { l with holdTimeout := value.extractLsb' 0 16, kindMask := value.extractLsb' 16 8 }

/-- The stored memory timeout for a written value: 0 to 15 is stored as 16 (R170). -/
def storedTimeout (value : Word) : BitVec 16 :=
  if (value.extractLsb' 0 16).toNat < 16 then 16 else value.extractLsb' 0 16

/-! ## Read words -/

def Structural.read (c : Structural) : StructuralReg → Word
  | .apertureBaseLow => c.apertureBase.extractLsb' 0 32
  | .highBytesAndExponents =>
    0#3 ++ c.capacityExponent ++ 0#3 ++ c.apertureExponent ++ c.memoryBase.extractLsb' 32 8
      ++ c.apertureBase.extractLsb' 32 8
  | .memoryBaseLow => c.memoryBase.extractLsb' 0 32
  | .startOffset => c.startOffset

def Live.read (l : Live) : LiveReg → Word
  | .producerConsumerMasks => l.consumerMask ++ l.producerMask
  | .observerPoliciesLineQuota =>
    0#2 ++ l.holdQuota ++ 0#2 ++ l.eventLine ++ 0#1 ++ l.underrun.code ++ l.overrun.code ++ l.observerMask
  | .highMark => 0#7 ++ l.highMark
  | .lowMark => 0#7 ++ l.lowMark
  | .timeoutKindMask => 0#8 ++ l.kindMask ++ l.holdTimeout

def ConfigReason.code : ConfigReason → BitVec 3
  | .align => 1
  | .size => 2
  | .aperture => 3
  | .span => 4
  | .marks => 5
  | .timeout => 6
  | .quota => 7

def CommandOutcome.code : CommandOutcome → BitVec 2
  | .accepted => 0
  | .refusedState => 1
  | .refusedConfig _ => 2

def CommandOutcome.reasonCode : CommandOutcome → BitVec 3
  | .refusedConfig reason => reason.code
  | .accepted | .refusedState => 0

def RingState.code : RingState → BitVec 3
  | .off => 0
  | .active => 1
  | .draining => 2
  | .paused => 3
  | .halted => 4
  | .clearing => 5

def Side.code : Side → BitVec 1
  | .low => 0
  | .high => 1

/-- The command status word: outcome, reason and busy indication (R28). -/
def Ring.commandStatus (r : Ring) : Word :=
  0#23 ++ BitVec.ofBool r.state.busy ++ 0#1 ++ r.outcome.reasonCode ++ 0#2 ++ r.outcome.code

/-- A 30-bit stream position in a status word. -/
def positionWord (p : Nat) : Word := 0#2 ++ BitVec.ofNat 30 p

/-- The words of a ring status block: the snapshot registers (R39) and the live poison list (R111). -/
def Ring.readStatus (r : Ring) : StatusReg → Word
  | .snapshotD => positionWord r.snapshot.D
  | .snapshotF => positionWord r.snapshot.F
  | .snapshotW => positionWord r.snapshot.W
  | .snapshotK => positionWord r.snapshot.K
  | .levelSideState =>
    r.snapshot.state.code ++ r.snapshot.side.code ++ 0#3 ++ BitVec.ofNat 25 r.snapshot.level
  | .counts =>
    0#7 ++ BitVec.ofBool r.snapshot.pending ++ 0#2 ++ BitVec.ofNat 6 r.snapshot.heldCount ++ 0#4
      ++ BitVec.ofNat 4 r.snapshot.drainCount ++ 0#4 ++ BitVec.ofNat 4 r.snapshot.fillCount
  | .poisonCount => 0#29 ++ BitVec.ofNat 3 r.poison.length
  | .poisonStart i =>
    match r.poison[i.val]? with
    | some e => positionWord e.start
    | none => 0
  | .poisonLength i =>
    match r.poison[i.val]? with
    | some e => 0#7 ++ BitVec.ofNat 25 (e.length r.structural.apertureSize)
    | none => 0

/-- The 15-bit count field of event head word 0 (R124, 10.7): a count above 7FFFh is presented as 7FFFh. -/
def EventCount.field : EventCount → BitVec 15
  | .absent => 0
  | .bytes n => BitVec.ofNat 15 (min n 0x7FFF)
  | .source master tag => 0#5 ++ tag ++ BitVec.ofNat 4 master.val

/-- Event head word 0 (10.7). -/
def EventRecord.word0 (r : EventRecord) : Word :=
  r.count.field ++ BitVec.ofBool r.afterLoss ++ BitVec.ofNat 4 ((r.ring.map Fin.val).getD 0)
    ++ BitVec.ofNat 4 r.kind.code ++ r.sequence

/-- Event head word 1 (10.7). -/
def EventRecord.word1 (r : EventRecord) : Word := r.line ++ BitVec.ofNat 30 (r.position.getD 0)

/-- The transaction entries in use (R150). -/
def SystemPort.inUse (p : SystemPort) : Nat := p.table.toList.countP Option.isSome

/-- The operations of a condition among those outstanding (R161). -/
def MemoryPort.countOf (p : MemoryPort) (c : OpCondition) : Nat :=
  p.outstanding.countP fun o => o.condition = c

/-- The occupancy register: five counts of one moment (R168). -/
def State.occupancy (s : State) : Word :=
  0#1 ++ BitVec.ofNat 6 (s.mem.countOf .orphan) ++ BitVec.ofNat 6 (s.mem.countOf .live)
    ++ BitVec.ofNat 6 s.events.records.length ++ BitVec.ofNat 6 s.pool.entries.length
    ++ BitVec.ofNat 7 s.sys.inUse

/-- The error flags register (R167). -/
def ErrorFlags.word (f : ErrorFlags) : Word :=
  0#28 ++ BitVec.ofBool f.popMismatch ++ BitVec.ofBool f.partialEnd ++ BitVec.ofBool f.locked
    ++ BitVec.ofBool f.addr

def PartState.code : PartState → BitVec 1
  | .running => 0
  | .resetting => 1

/-- The 32-bit value of a register at the moment of its capture (R165, 10.7). -/
def State.readReg (s : State) : Reg → Word
  | .identification => 0x0142187A#32
  | .control => 0#30 ++ BitVec.ofBool s.events.lost ++ s.part.code
  | .divider => 0#22 ++ s.time.divider
  | .memoryTimeout => 0#16 ++ s.mgmt.memoryTimeout
  | .lineEnables => 0#28 ++ s.mgmt.lineEnables
  | .passFault => 0#26 ++ s.mgmt.passFaultLine ++ 0#3 ++ BitVec.ofBool s.mgmt.passFaultEnable
  | .tickCount => s.time.count
  | .occupancy => s.occupancy
  | .eventHead0 => (s.events.records.head?.map EventRecord.word0).getD 0
  | .eventHead1 => (s.events.records.head?.map EventRecord.word1).getD 0
  | .eventPop => 0
  | .errorFlags => s.mgmt.flags.word
  | .structural r reg => (s.ring r).structural.read reg
  | .live r reg => (s.ring r).shadow.read reg
  | .command r => (s.ring r).commandStatus
  | .fillCounter r .discard => 0#16 ++ (s.ring r).discardCount
  | .fillCounter r .overtake => 0#16 ++ (s.ring r).overtakeCount
  | .lateCounter r => 0#16 ++ (s.ring r).lateCount
  | .status r reg => (s.ring r).readStatus reg
  | .unmapped => 0

/-- The word that four bytes make in the order in which they come, least significant first (R164, 10.7). -/
def wordOfBytes (first second third fourth : Byte) : Word := fourth ++ third ++ second ++ first

/-- The value of a complete data group: its first byte is the least significant (R164). -/
def groupWord (group : DataGroup) : Word := wordOfBytes group.first group.second group.third group.fourth

/-- The four bytes of a word in the order in which they go, least significant first (R165, 10.7). -/
def wordBytes (w : Word) : List Byte :=
  [w.extractLsb' 0 8, w.extractLsb' 8 8, w.extractLsb' 16 8, w.extractLsb' 24 8]

end Sys2Proof.Machine
end

