-- ==== Sys2Proof/Machine/Links.lean ====
section
/-! DEFINITION. The words of the four links (10.7): header words and data words, as they are sent and as they are
read. Commands and the state carry the same fields decoded. -/

namespace Sys2Proof.Machine

/-! ## Data words -/

/-- Data as words, four bytes to a word, the lowest-addressed in bits [7:0]; unused bytes of the last word are
sent as 0. -/
def dataWords : List Byte → List Word
  | [] => []
  | [a] => [wordOfBytes a 0 0 0]
  | [a, b] => [wordOfBytes a b 0 0]
  | [a, b, c] => [wordOfBytes a b c 0]
  | a :: b :: c :: d :: rest => wordOfBytes a b c d :: dataWords rest

/-- The bytes of data words, of which `length` are data; unused bytes are ignored on receipt. -/
def bytesOfWords (length : Nat) (words : List Word) : List Byte := (words.flatMap wordBytes).take length

/-! ## The system port's links -/

def directionBit : Direction → BitVec 1
  | .read => 0
  | .write => 1

def directionOfBit (b : BitVec 1) : Direction := if b = 1 then .write else .read

/-- Word 0 of a request: master [3:0], tag [9:4], direction [10], length [19:11], address [39:32] at [27:20]. -/
def requestWord0 (q : Request) : Word :=
  0#4 ++ q.address.extractLsb' 32 8 ++ q.length ++ directionBit q.direction ++ q.tag
    ++ BitVec.ofNat 4 q.master.val

/-- Word 1 of a request: address [31:0]. -/
def requestWord1 (q : Request) : Word := q.address.extractLsb' 0 32

/-- A request as words: two header words, then a write's data. -/
def requestWords (q : Request) : List Word := requestWord0 q :: requestWord1 q :: dataWords q.data

/-- The request that two header words and data words spell; a read has no data. -/
def requestOfWords (w0 w1 : Word) (words : List Word) : Request :=
  let direction := directionOfBit (w0.extractLsb' 10 1)
  let length := w0.extractLsb' 11 9
  { master := ⟨(w0.extractLsb' 0 4).toNat, (w0.extractLsb' 0 4).isLt⟩
    tag := w0.extractLsb' 4 6
    direction := direction
    address := w0.extractLsb' 20 8 ++ w1
    length := length
    data := match direction with
      | .write => bytesOfWords length.toNat words
      | .read => [] }

/-- The status codes of responses (R145). -/
def Status.code : Status → BitVec 4
  | .done => 0
  | .discarded => 1
  | .empty => 2
  | .late => 3
  | .stale => 4
  | .range => 5
  | .overlap => 6
  | .refused => 7
  | .busy => 8
  | .poisoned => 9
  | .fault => 10
  | .halted => 11
  | .stopped => 12
  | .aborted => 13
  | .protocol => 14

/-- A response as words: master [3:0], tag [9:4], status [13:10], then a DONE read's data. -/
def Response.words (p : Response) : List Word :=
  (0#18 ++ p.status.code ++ p.tag ++ BitVec.ofNat 4 p.master.val) :: dataWords p.data

/-! ## The memory port's links -/

/-- An operation as words: id [5:0], direction [6], length [15:7], address [39:32] at [23:16]; address [31:0];
then a write's data. -/
def LinkOperation.words (o : LinkOperation) : List Word :=
  let address : Address := BitVec.ofNat 40 o.address
  (0#8 ++ address.extractLsb' 32 8 ++ BitVec.ofNat 9 o.length ++ directionBit o.direction
      ++ BitVec.ofNat 6 o.id.val) :: address.extractLsb' 0 32 :: dataWords o.data

/-- The memory response that a header word and data words spell: id [5:0], status [6]. The link carries
`length` bytes for an OK read of that length (R151). -/
def memoryResponseOfWords (w0 : Word) (words : List Word) (length : Nat) : Instr :=
  .memoryResponse (w0.extractLsb' 0 6) (if w0.extractLsb' 6 1 = 0#1 then .ok else .error)
    (bytesOfWords length words)

end Sys2Proof.Machine
end

