-- ==== Sys2Proof/Machine/Ops.lean ====
section
/-! DEFINITION. The shared operations over the transaction table, the ready order, the hold pool and the issue queue
(chapters 5, 8 and 9). A block has no exception entry: an error shows as a status, a flag or an event record. -/

namespace Sys2Proof.Machine

/-- An event that the part does not take while RST_N is low (R173). -/
def State.outOfReset (s : State) (f : State → State) : State := if s.inReset then s else f s

/-! ## Transaction entries -/

def State.txn (s : State) (t : TxnNo) : Option Txn := s.sys.table[t.val]

def State.setTxn (s : State) (t : TxnNo) (x : Option Txn) : State :=
  { s with sys := { s.sys with table := s.sys.table.set t.val x } }

/-- The ring of the request that an operation or a hold entry belongs to. -/
def State.ringOf (s : State) (t : TxnNo) : Option RingNo := (s.txn t).bind Txn.ring

/-- The lowest-numbered free transaction entry (R137). -/
def State.freeTxn (s : State) : Option TxnNo := (List.finRange 64).find? fun t => (s.txn t).isNone

/-- The status of a request is formed: the entry goes to READY with the response's bytes and joins the tail
of the ready order (R141, R146). Whatever write data the entry held are discarded. -/
def State.answer (s : State) (t : TxnNo) (status : Status) (data : List Byte := []) : State :=
  match s.txn t with
  | none => s
  | some x =>
    let s := s.setTxn t (some { x with stage := .ready, status := some status, data := data })
    { s with sys := { s.sys with readyOrder := s.sys.readyOrder ++ [t] } }

def State.setUndelivered (s : State) (m : MasterNo) (n : Nat) : State :=
  { s with sys := { s.sys with undelivered := s.sys.undelivered.set m.val n } }

/-! ## What a link carried -/

/-- Exactly `n` bytes of what a link carried: bytes beyond them are ignored (10.7), and a byte that is not
there is a free value (log entry 3). -/
def State.linkBytes (s : State) (n : Nat) (given : List Byte) : List Byte :=
  given.take n ++ (List.range (n - given.length)).map (Config.missingByte s.freeCount)

/-- The free-value counter moves on when a byte was missing. -/
def State.countMissing (s : State) (n : Nat) (given : List Byte) : State :=
  if given.length < n then { s with freeCount := s.freeCount + 1 } else s

/-! ## The hold pool -/

/-- The held count of a ring (R93). -/
def HoldPool.heldCount (p : HoldPool) (r : RingNo) : Nat := p.entries.countP fun h => h.ring = r

/-- The lowest-numbered free slot (R91). -/
def HoldPool.freeSlot (p : HoldPool) : Option SlotNo :=
  (List.finRange 32).find? fun i => p.entries.all fun h => h.slot ≠ i

/-- A slot's store after `data` was copied to its start (R91, R94). -/
def storeOver (data old : List Byte) : List Byte := data ++ old.drop data.length

/-- A granted hold (R94, steps 1 to 5), in the slot taken. -/
def State.grantHold (s : State) (t : TxnNo) (x : Txn) (r : RingNo) (reason : HoldReason) (slot : SlotNo) :
    State :=
  let entry : HoldEntry := {
    slot := slot
    transaction := t
    ring := r
    reason := reason
    deadline := s.time.count + (s.ring r).active.holdTimeout.setWidth 32
    state := .waiting }
  let s := { s with pool := { s.pool with
    entries := s.pool.entries ++ [entry]
    stores := s.pool.stores.set slot.val (storeOver x.data s.pool.stores[slot.val]) } }
  s.setTxn t (some { x with stage := .held, data := [] })

/-- A hold is asked of the pool: granted while the ring's held count is below its active quota and a slot is
free, and answered BUSY otherwise (R94). -/
def State.askHold (s : State) (t : TxnNo) (x : Txn) (r : RingNo) (reason : HoldReason) : State :=
  if s.pool.heldCount r < (s.ring r).active.holdQuota.toNat then
    match s.pool.freeSlot with
    | some slot => s.grantHold t x r reason slot
    | none => s.answer t .busy
  else s.answer t .busy

/-- The entries that `gone` names leave the pool: their lists, and their slots with them. -/
def HoldPool.remove (p : HoldPool) (gone : List HoldEntry) : HoldPool :=
  { p with
    entries := p.entries.filter fun h => !gone.contains h
    released := p.released.filter fun i => !gone.any fun h => h.slot = i }

/-- The held entries that `chosen` picks are answered, oldest first, and leave the pool (R103, R100). -/
def State.answerHeld (s : State) (chosen : HoldEntry → Bool) (status : HoldEntry → Status) : State :=
  let gone := s.pool.entries.filter chosen
  let s := gone.foldl (fun s h => s.answer h.transaction (status h)) s
  { s with pool := s.pool.remove gone }

/-- A ring's whole hold list is answered on a change of its state (R103). -/
def State.answerHoldList (s : State) (r : RingNo) (status : HoldEntry → Status) : State :=
  s.answerHeld (fun h => h.ring = r) status

/-- The condition for release of a held request (the table of R97). -/
def State.releasable (s : State) (h : HoldEntry) : Bool :=
  match (s.txn h.transaction).bind Txn.range with
  | none => false
  | some e =>
    match h.reason with
    | .underrun => !decide ((s.ring h.ring).BeyondFill e.stop)
    | .room => !decide ((s.ring h.ring).BeyondRoom e.stop)

/-- A release scan of a ring's hold list for the entries of the reasons it examines (R97). -/
def State.releaseScan (s : State) (r : RingNo) (examines : HoldReason → Bool) : State :=
  let ripe : HoldEntry → Bool := fun h =>
    h.ring = r && h.state = .waiting && examines h.reason && s.releasable h
  { s with pool := { s.pool with
    entries := s.pool.entries.map fun h => if ripe h then { h with state := .released } else h
    released := s.pool.released ++ (s.pool.entries.filter ripe).map HoldEntry.slot } }

/-- The reasons of a scan after an advance of F (R96). -/
def HoldReason.isUnderrun : HoldReason → Bool
  | .underrun => true
  | .room => false

/-- The reasons of a scan after an advance of D (R96). -/
def HoldReason.isRoom : HoldReason → Bool
  | .underrun => false
  | .room => true

/-! ## The issue queue -/

/-- The entries of the issue queue that accepted ring requests have reserved, two each (R137). -/
def State.reserved (s : State) : Nat := 2 * s.awaiting.length

/-- The free entries of the issue queue: 16 less the occupied and the reserved ones (R152). -/
def State.freeEntries (s : State) : Nat := Config.issueQueueSize - s.mem.queue.length - s.reserved

/-- The operations of a request's parts, first part then second, each with its share of a write's data in
stream order (R12, R54). -/
def partOperations (t : TxnNo) (x : Txn) (cls : OpClass) : List Operation :=
  match x.parts with
  | [] => []
  | p :: rest =>
    { transaction := t, part := .first, cls := cls, direction := x.direction,
      address := p.memAddress, length := p.length, data := x.data.take p.length } ::
    match rest with
    | [] => []
    | q :: _ =>
      [{ transaction := t, part := .second, cls := cls, direction := x.direction,
         address := q.memAddress, length := q.length, data := x.data.drop p.length }]

/-- The request's parts join the tail of the issue queue as adjacent entries: parts outstanding is their
number, the stage QUEUED, and a write's data leave the entry (R54 steps 6 and 7, R82, R142). -/
def State.enqueueParts (s : State) (t : TxnNo) (x : Txn) (cls : OpClass) : State :=
  let s := s.setTxn t (some { x with outstanding := x.parts.length, stage := .queued, data := [] })
  { s with mem := { s.mem with queue := s.mem.queue ++ partOperations t x cls } }

/-- Some operation of the ring waits in the issue queue or is live; an orphan is not counted (R36, R37). -/
def State.ringBusy (s : State) (r : RingNo) : Bool :=
  s.mem.queue.any (fun o => s.ringOf o.transaction = some r)
    || s.mem.outstanding.any (fun o => o.condition = .live && s.ringOf o.transaction = some r)

/-- The bytes of a range intersect the memory span of a ring not OFF (R7). -/
def State.guarded (s : State) (address length : Nat) : Bool :=
  s.rings.toList.any fun x =>
    x.state != .off && decide (RangesMeet address length x.structural.memoryBase.toNat x.structural.capacity)

end Sys2Proof.Machine
end

