-- ==== Sys2Proof/Machine/RingEngine.lean ====
section
/-! DEFINITION. The ring engine's shared operations: scoreboards, absorption, the poison list, the shadow apply, the
tests that end a drain and a clear (chapters 2 to 4 and 6). -/

namespace Sys2Proof.Machine

/-- The aperture size A of a ring. -/
def Ring.A (x : Ring) : Nat := x.structural.apertureSize

/-- The capacity C of a ring. -/
def Ring.C (x : Ring) : Nat := x.structural.capacity

/-! ## Scoreboards -/

/-- An entry is inserted at its sorted place, by the signed distance of its start from a frontier (R43, R71). -/
def insertEntry (A frontier : Nat) (e : ScoreEntry) : List ScoreEntry → List ScoreEntry
  | [] => [e]
  | f :: rest =>
    if signedDistance A frontier e.extent.start < signedDistance A frontier f.extent.start then e :: f :: rest
    else f :: insertEntry A frontier e rest

/-- The IN_FLIGHT entry that carries a transaction entry number takes a new state (R60, R83); entries are
looked up among IN_FLIGHT entries alone (R43, R71). -/
def turnEntry (t : TxnNo) (state : EntryState) (entries : List ScoreEntry) : List ScoreEntry :=
  entries.map fun e =>
    if e.state = .inFlight && e.transactions.contains t then { e with state := state } else e

/-- Some IN_FLIGHT entry carries the transaction entry number. -/
def carriesInFlight (t : TxnNo) (entries : List ScoreEntry) : Bool :=
  entries.any fun e => e.state = .inFlight && e.transactions.contains t

/-- LANDED entries that touch become one LANDED entry with the union of their transaction entry numbers
(R61, R85). Entries are sorted and disjoint, so the ones that touch stand side by side. -/
def mergeLanded : List ScoreEntry → List ScoreEntry
  | [] => []
  | e :: rest =>
    match mergeLanded rest with
    | [] => [e]
    | f :: more =>
      if e.state = .landed ∧ f.state = .landed ∧ e.extent.stop = f.extent.start then
        { extent := ⟨e.extent.start, f.extent.stop⟩, state := .landed,
          transactions := e.transactions ++ f.transactions } :: more
      else e :: f :: more

/-! ## The poison list -/

/-- What the poison list does with an extent [f, v) offered at F (the table of R112). -/
inductive PoisonOffer where
  | merged (list : List Extent)
  | added (list : List Extent)
  | refused
  deriving DecidableEq, Repr

/-- A VOID extent [f, v) is offered to the poison list (R112). -/
def offerPoison (f v : Nat) (list : List Extent) : PoisonOffer :=
  match list.getLast? with
  | some last =>
    if last.stop = f then .merged (list.dropLast ++ [⟨last.start, v⟩])
    else if list.length < Config.poisonSize then .added (list ++ [⟨f, v⟩])
    else .refused
  | none => .added [⟨f, v⟩]

/-- Poison entries that a new K has left behind are removed, and one that straddles it begins at K (R55). -/
def retirePoison (A K : Nat) (list : List Extent) : List Extent :=
  list.filterMap fun e =>
    if IsBeyond A K e.stop then
      if IsBehind A K e.start then some ⟨K, e.stop⟩ else some e
    else none

/-! ## Absorption -/

/-- What one absorption of the fill side leaves (R62, R63). -/
structure FillAbsorption where
  fill    : List ScoreEntry
  F       : Nat
  poison  : List Extent
  /-- The new poison entries, in the order in which they were taken. -/
  added   : List Extent
  /-- The poison list refused a VOID extent. -/
  refused : Bool
  deriving DecidableEq, Repr

/-- The fill side absorbs: F moves over the LANDED and VOID entries that begin at it (R62). -/
def absorbFill (F : Nat) (poison : List Extent) : List ScoreEntry → FillAbsorption
  | [] => { fill := [], F := F, poison := poison, added := [], refused := false }
  | e :: rest =>
    let stopped : FillAbsorption :=
      { fill := e :: rest, F := F, poison := poison, added := [], refused := false }
    if e.extent.start = F then
      match e.state with
      | .inFlight => stopped
      | .landed => absorbFill e.extent.stop poison rest
      | .void =>
        match offerPoison F e.extent.stop poison with
        | .merged list => absorbFill e.extent.stop list rest
        | .added list =>
          let a := absorbFill e.extent.stop list rest
          { a with added := e.extent :: a.added }
        | .refused => { stopped with refused := true }
    else stopped

/-- The drain side absorbs: D moves over the LANDED entries that begin at it (R86). -/
def absorbDrain (D : Nat) : List ScoreEntry → List ScoreEntry × Nat
  | [] => ([], D)
  | e :: rest =>
    if e.extent.start = D ∧ e.state = .landed then absorbDrain e.extent.stop rest
    else (e :: rest, D)

/-! ## The shadow apply -/

/-- The checks MARKS, TIMEOUT and QUOTA of a live set against the capacity (R22, R26): the first that fails. -/
def Live.refusal (l : Live) (C : Nat) : Option ConfigReason :=
  if l.highMark.toNat = 0 ∨ C < l.highMark.toNat ∨ l.highMark.toNat ≤ l.lowMark.toNat then some .marks
  else if l.holdTimeout = 0 ∧ (l.underrun = .wait ∨ l.overrun = .block) then some .timeout
  else if 32 < l.holdQuota.toNat then some .quota
  else none

/-- The first failing check of an apply of the ring's shadow set (R22). -/
def Ring.shadowRefusal (x : Ring) : Option ConfigReason := x.shadow.refusal x.C

/-- Every live field of the shadow set is copied into the active set, and the pending flag is cleared (R19). -/
def Ring.applyShadow (x : Ring) : Ring := { x with active := x.shadow, pending := false }

/-- An apply in a ring not OFF: the checks of R22, then the apply or the refusal. -/
def Ring.attemptApply (x : Ring) : Ring :=
  match x.shadowRefusal with
  | none => x.applyShadow
  | some reason => { x with pending := true, outcome := .refusedConfig reason }

/-! ## The ends of a drain and of a clear -/

/-- The ring has an IN_FLIGHT fill entry. -/
def Ring.fillInFlight (x : Ring) : Bool := x.fill.any fun e => e.state = .inFlight

/-- The drain-end test: a DRAINING ring with no IN_FLIGHT fill entry becomes PAUSED (R31). -/
def State.testDrainEnd (s : State) (r : RingNo) : State :=
  let x := s.ring r
  if x.state = .draining ∧ x.fillInFlight = false then
    (s.setRing r { x with state := .paused }).raise r .paused (some x.F) .absent
  else s

/-- The ring's fields as a clear ends (R37): a pending shadow set is applied without checks. -/
def Ring.endClear (x : Ring) : Ring :=
  let x := if x.pending then x.applyShadow else x
  { x with
    fill := [], drain := [], poison := []
    discardCount := 0, overtakeCount := 0, lateCount := 0
    state := .off }

/-- Every transaction entry of the ring in stage ACCEPTED is marked cleared (R3, R37). -/
def Txn.markCleared (x : Txn) (r : RingNo) : Txn :=
  if x.ring = some r ∧ x.stage = .accepted then { x with cleared := true } else x

/-- A vector with a function applied to each place. -/
def mapPlaces {α : Type} {n : Nat} (f : α → α) (v : Vector α n) : Vector α n :=
  ⟨⟨v.toList.map f⟩, by simp⟩

def State.markCleared (s : State) (r : RingNo) : State :=
  { s with sys := { s.sys with table := mapPlaces (Option.map fun x => x.markCleared r) s.sys.table } }

/-- The clear-end test: a CLEARING ring with no operation outstanding, orphans not counted, goes OFF (R37). -/
def State.testClearEnd (s : State) (r : RingNo) : State :=
  if (s.ring r).state = .clearing ∧ s.ringBusy r = false then
    ((s.setRing r (s.ring r).endClear).markCleared r).raise r .cleared none .absent
  else s

/-- CLEAR as it is taken in ACTIVE, DRAINING, PAUSED and HALTED (R36). -/
def State.beginClear (s : State) (r : RingNo) : State :=
  let s := s.answerHoldList r fun _ => .aborted
  let s := s.setRing r { s.ring r with state := .clearing, outcome := .accepted }
  s.testClearEnd r

/-- The ring enters HALTED: its hold list is answered HALTED and HALTED is raised with F (R33, R35, R105). -/
def State.enterHalted (s : State) (r : RingNo) : State :=
  let s := s.setRing r { s.ring r with state := .halted }
  let s := s.answerHoldList r fun _ => .halted
  s.raise r .halted (some (s.ring r).F) .absent

/-! ## Landing -/

/-- The end of an absorption that began with F at f0 (R64, R24): shadow apply at a lap boundary, one level
evaluation, one release scan, APPLIED, drain test. -/
def State.finishWriteEnd (s : State) (r : RingNo) (f0 : Nat) : State :=
  let x := s.ring r
  let moved : Bool := x.F != f0
  let boundary : Bool := moved && decide (IsLapBoundary x.structural f0 x.F) && x.pending
    && (x.state == .active || x.state == .draining)
  let applied : Bool := boundary && x.shadowRefusal == none
  let s := if boundary then s.setRing r x.attemptApply else s
  let s := if moved then s.evaluateLevel r else s
  let s := if moved && (s.ring r).state == .active then s.releaseScan r HoldReason.isUnderrun else s
  let s := if applied then s.raise r .applied (some (s.ring r).F) .absent else s
  s.testDrainEnd r

/-- The fill side absorbs in ACTIVE or DRAINING and the landing is completed (R62 to R64, R112, R116). -/
def State.absorbWrites (s : State) (r : RingNo) : State :=
  let x := s.ring r
  let a := absorbFill x.F x.poison x.fill
  let s := s.setRing r { x with fill := a.fill, F := a.F, poison := a.poison }
  let s := a.added.foldl
    (fun s e => s.raise r .poisoned (some e.start) (.bytes (e.length x.A))) s
  let s := if a.refused then s.enterHalted r else s
  s.finishWriteEnd r x.F

/-- The drain side absorbs; when D moved, one level evaluation follows, and in ACTIVE a release scan for ROOM
entries (R86). -/
def State.absorbReads (s : State) (r : RingNo) : State :=
  let x := s.ring r
  let a := absorbDrain x.D x.drain
  let s := s.setRing r { x with drain := a.1, D := a.2 }
  if a.2 = x.D then s
  else
    let s := s.evaluateLevel r
    if (s.ring r).state = .active then s.releaseScan r HoldReason.isRoom else s

/-- The end of a ring write (R60, R109): its entry turns LANDED or VOID, it is answered DONE or FAULT, and in
ACTIVE and DRAINING the fill side merges and absorbs. -/
def State.endWrite (s : State) (r : RingNo) (t : TxnNo) (ok : Bool) : State :=
  let x := s.ring r
  let fill := if ok then mergeLanded (turnEntry t .landed x.fill) else turnEntry t .void x.fill
  let s := s.setRing r { x with fill := fill }
  let s := s.answer t (if ok then .done else .fault)
  if x.state = .active ∨ x.state = .draining then s.absorbWrites r else s

/-- The end of a ring read (R83, R84, R110): answered DONE with its data, its entry, if one remains, turned
LANDED, merged and absorbed where the frontiers move; or answered FAULT and its entry removed. -/
def State.endRead (s : State) (r : RingNo) (t : TxnNo) (ok : Bool) (data : List Byte) : State :=
  let x := s.ring r
  if ok then
    let s := s.answer t .done data
    if carriesInFlight t x.drain then
      let s := s.setRing r { x with drain := mergeLanded (turnEntry t .landed x.drain) }
      if x.state = .active ∨ x.state = .draining ∨ x.state = .paused then s.absorbReads r else s
    else s
  else
    let s := s.answer t .fault
    s.setRing r { x with
      drain := x.drain.filter fun e => !(e.state = .inFlight && e.transactions.contains t) }

/-! ## Part reset completion -/

/-- The fields of a ring that a part reset returns to their reset values (R42, R172). -/
def Ring.partReset (x : Ring) : Ring :=
  { x with
    structural := .reset, active := .reset, shadow := .reset, pending := false, outcome := .accepted
    discardCount := 0, overtakeCount := 0, lateCount := 0 }

/-- The table is empty, the issue queue holds no operation and no live operation remains (R172). -/
def State.resetMayComplete (s : State) : Bool :=
  s.part == .resetting && s.sys.table.toList.all Option.isNone && s.mem.queue.isEmpty
    && s.mem.outstanding.all fun o => o.condition = .orphan

/-- The completion test of the part reset (R172). -/
def State.testResetCompletion (s : State) : State :=
  if s.resetMayComplete then
    State.emptyEvents { s with rings := mapPlaces Ring.partReset s.rings, part := .running }
  else s

end Sys2Proof.Machine
end

