-- ==== Sys2Proof/Machine/RingCommands.lean ====
section
/-! DEFINITION. What the ring commands do once the write of the command register is taken (2.5 to 2.7), and the two
tests that are rows of their own, DRAIN_END and CLEAR_END. -/

namespace Sys2Proof.Machine

/-- The command status takes an outcome and nothing else changes (R28). -/
def State.setOutcome (s : State) (r : RingNo) (o : CommandOutcome) : State :=
  s.setRing r { s.ring r with outcome := o }

/-! ## ENABLE -/

/-- Some other ring not OFF is one that the test holds of (R26). -/
def State.otherRing (s : State) (r : RingNo) (test : Ring → Bool) : Bool :=
  (List.finRange 16).any fun q => q ≠ r && (s.ring q).state != .off && test (s.ring q)

def Ring.apertureStart (x : Ring) : Nat := x.structural.apertureBase.toNat

def Ring.spanStart (x : Ring) : Nat := x.structural.memoryBase.toNat

/-- The checks of ENABLE in their order (the table of R26): the first failing one's reason. -/
def State.enableRefusal (s : State) (r : RingNo) : Option ConfigReason :=
  let x := s.ring r
  let a := x.structural.apertureExponent.toNat
  let c := x.structural.capacityExponent.toNat
  if x.apertureStart % x.A ≠ 0 ∨ x.spanStart % 256 ≠ 0 then some .align
  else if a < 20 ∨ 30 < a ∨ c < 12 ∨ 24 < c ∨ x.A < 4 * x.C then some .size
  else if s.otherRing r (fun q => decide (RangesMeet x.apertureStart x.A q.apertureStart q.A)
      || decide (RangesMeet x.apertureStart x.A q.spanStart q.C)) then some .aperture
  else if Config.addressSpace < x.spanStart + x.C ∨ RangesMeet x.spanStart x.C x.apertureStart x.A
      ∨ s.otherRing r (fun q => decide (RangesMeet x.spanStart x.C q.spanStart q.C)
        || decide (RangesMeet x.spanStart x.C q.apertureStart q.A)) = true then some .span
  else x.active.refusal x.C

/-- The ring as a validated ENABLE leaves it (R29). -/
def Ring.enabled (x : Ring) : Ring :=
  let p := x.structural.startOffset.toNat % x.A
  { x with
    D := p, F := p, W := p, K := p
    fill := [], drain := [], poison := []
    discardCount := 0, overtakeCount := 0, lateCount := 0
    side := .low
    state := .active
    outcome := .accepted }

/-- ENABLE is taken in OFF (R29). -/
def State.takeEnable (s : State) (r : RingNo) : State :=
  if (s.ring r).state = .off then
    match s.enableRefusal r with
    | some reason => s.setOutcome r (.refusedConfig reason)
    | none => s.setRing r (s.ring r).enabled
  else s.setOutcome r .refusedState

/-! ## PAUSE, RESUME, HALT, CLEAR -/

/-- What PAUSE answers a held request: STOPPED for a write, EMPTY for a read (R104). -/
def pauseAnswer (h : HoldEntry) : Status :=
  match h.reason with
  | .room => .stopped
  | .underrun => .empty

/-- PAUSE is taken in ACTIVE (R30). -/
def State.takePause (s : State) (r : RingNo) : State :=
  if (s.ring r).state = .active then
    let s := s.setRing r { s.ring r with state := .draining, outcome := .accepted }
    (s.answerHoldList r pauseAnswer).testDrainEnd r
  else s.setOutcome r .refusedState

/-- RESUME is taken in PAUSED (R32). -/
def State.takeResume (s : State) (r : RingNo) : State :=
  if (s.ring r).state = .paused then
    s.setRing r { s.ring r with state := .active, outcome := .accepted }
  else s.setOutcome r .refusedState

/-- HALT is taken in ACTIVE, DRAINING and PAUSED (R33). -/
def State.takeHalt (s : State) (r : RingNo) : State :=
  match (s.ring r).state with
  | .active | .draining | .paused => (s.setOutcome r .accepted).enterHalted r
  | .off | .halted | .clearing => s.setOutcome r .refusedState

/-- CLEAR is taken in ACTIVE, DRAINING, PAUSED and HALTED; in OFF it is ACCEPTED and does nothing (R36). -/
def State.takeClear (s : State) (r : RingNo) : State :=
  match (s.ring r).state with
  | .active | .draining | .paused | .halted => s.beginClear r
  | .off => s.setOutcome r .accepted
  | .clearing => s.setOutcome r .refusedState

/-! ## APPLY_NOW and SNAPSHOT -/

/-- An apply on command succeeds: level evaluation, release scan in ACTIVE, APPLIED (R23, R38). -/
def State.applyOnCommand (s : State) (r : RingNo) : State :=
  let s := s.setRing r { (s.ring r).applyShadow with outcome := .accepted }
  let s := s.evaluateLevel r
  let s := if (s.ring r).state = .active then s.releaseScan r fun _ => true else s
  s.raise r .applied (some (s.ring r).F) .absent

/-- APPLY_NOW is taken in every state but OFF (R38). -/
def State.takeApplyNow (s : State) (r : RingNo) : State :=
  let x := s.ring r
  if x.state = .off then s.setOutcome r .refusedState
  else if x.pending = false then s.setOutcome r .accepted
  else
    match x.shadowRefusal with
    | none => s.applyOnCommand r
    | some reason => s.setOutcome r (.refusedConfig reason)

/-- What SNAPSHOT copies (R39). The level of a ring in OFF is measured under the present aperture size exponent (log
entry 27). -/
def State.snapshotOf (s : State) (r : RingNo) : Snapshot :=
  let x := s.ring r
  { D := x.D, F := x.F, W := x.W, K := x.K
    level := x.level
    side := x.side
    fillCount := x.fill.length
    drainCount := x.drain.length
    heldCount := s.pool.heldCount r
    pending := x.pending
    state := x.state }

/-- SNAPSHOT is taken in every ring state (R39). -/
def State.takeSnapshot (s : State) (r : RingNo) : State :=
  s.setRing r { s.ring r with snapshot := s.snapshotOf r, outcome := .accepted }

/-! ## The command register -/

/-- A command code written to the ring's command register (10.7); a code that names no command is answered
REFUSED_STATE (R28). -/
def State.takeCommand (s : State) (r : RingNo) (code : BitVec 4) : State :=
  match code.toNat with
  | 1 => s.takeEnable r
  | 2 => s.takePause r
  | 3 => s.takeResume r
  | 4 => s.takeHalt r
  | 5 => s.takeClear r
  | 6 => s.takeApplyNow r
  | 7 => s.takeSnapshot r
  | _ => s.setOutcome r .refusedState

/-! ## The tests that are rows of their own -/

/-- DRAIN_END (R31): the test that every write end in DRAINING and PAUSE also make. -/
def execDrainEnd (r : RingNo) (s : State) : Host.Outcome State Fault Refusal :=
  .next (s.outOfReset fun s => s.testDrainEnd r)

/-- CLEAR_END (R37): the test that every end of an operation of the ring and CLEAR also make. -/
def execClearEnd (r : RingNo) (s : State) : Host.Outcome State Fault Refusal :=
  .next (s.outOfReset fun s => s.testClearEnd r)

end Sys2Proof.Machine
end

