-- ==== Sys2Proof/Machine/Descriptors.lean ====
section
/-! DEFINITION. What a complete write does to a ring control block's structural fields (R20), live fields (R21) and
counters (R67, R102), while the part is RUNNING. -/

namespace Sys2Proof.Machine

/-- A structural register is replaced in OFF; in any other state the write is ignored with LOCKED set (R20). -/
def State.writeStructural (s : State) (r : RingNo) (reg : StructuralReg) (value : Word) : State :=
  let x := s.ring r
  if x.state = .off then s.setRing r { x with structural := x.structural.write reg value }
  else s.setLockedFlag

/-- An immediate apply by a shadow write in PAUSED or HALTED: the checks of R22, and on success one level
evaluation and no APPLIED (R21, R23). -/
def State.applyImmediately (s : State) (r : RingNo) : State :=
  let x := s.ring r
  let s := s.setRing r x.attemptApply
  if x.shadowRefusal = none then s.evaluateLevel r else s

/-- Every field of a live register is replaced in the shadow set in one event; what follows depends on the
ring state (R21). -/
def State.writeLive (s : State) (r : RingNo) (reg : LiveReg) (value : Word) : State :=
  let x := { s.ring r with shadow := (s.ring r).shadow.write reg value }
  match x.state with
  | .off => s.setRing r { x with active := x.shadow }
  | .paused | .halted => (s.setRing r x).applyImmediately r
  | .active | .draining | .clearing => s.setRing r { x with pending := true }

/-- A management write to the discard or overtake counter sets it to 0 (R67). -/
def State.zeroFillCounter (s : State) (r : RingNo) (counter : FillCounter) : State :=
  match counter with
  | .discard => s.setRing r { s.ring r with discardCount := 0 }
  | .overtake => s.setRing r { s.ring r with overtakeCount := 0 }

/-- A management write to the late counter sets it to 0 (R102). -/
def State.zeroLateCounter (s : State) (r : RingNo) : State :=
  s.setRing r { s.ring r with lateCount := 0 }

/-- A write to a writable ring control block register: taken while RUNNING, ignored with LOCKED set while
RESETTING (R166). -/
def State.whileRunning (s : State) (f : State → State) : State :=
  if s.part = .running then f s else s.setLockedFlag

end Sys2Proof.Machine
end

