-- ==== Sys2Proof/Machine/PartReset.lean ====
section
/-! DEFINITION. The part reset (R171, R172) and the hardware reset (R173). -/

namespace Sys2Proof.Machine

/-- A ring in ACTIVE, DRAINING, PAUSED or HALTED is treated as having taken CLEAR (R42, R171). -/
def State.clearForReset (s : State) (r : RingNo) : State :=
  match (s.ring r).state with
  | .active | .draining | .paused | .halted => s.beginClear r
  | .off | .clearing => s

/-- RESET_PART is taken while RUNNING; while RESETTING it is ignored and sets no flag (R171). -/
def State.takeResetPart (s : State) : State :=
  match s.part with
  | .resetting => s
  | .running =>
    ((List.finRange 16).foldl State.clearForReset { s with part := .resetting }).testResetCompletion

/-- PART_RESET_COMPLETION (R172): the test that RESET_PART, every delivery, every end of an operation and every
refusal at the head also make. -/
def execPartResetCompletion (s : State) : Host.Outcome State Fault Refusal :=
  .next (s.outOfReset State.testResetCompletion)

/-- The 7-bit I2C address 58h + 2 × ADDR1 + ADDR0 (R163). -/
def i2cAddressOf (addr1 addr0 : Bool) : BitVec 7 :=
  0x58#7 + (0#5 ++ BitVec.ofBool addr1 ++ BitVec.ofBool addr0)

/-- HARDWARE_RESET (R173): every piece of state takes its hardware reset value and the address pins are
sampled. The commands still waiting and the model's own counter are no state of the part. -/
def execHardwareReset (addr1 addr0 : Bool) (s : State) : Host.Outcome State Fault Refusal :=
  .next { State.reset with
    mgmt := { Management.reset with i2cAddress := i2cAddressOf addr1 addr0 }
    freeCount := s.freeCount
    pending := s.pending }

/-- HELD_IN_RESET (R173): the event lines are deasserted, the links carry nothing, no address is acknowledged,
and the I2C transaction in progress is abandoned with its partial bytes `_cut`, which take no effect. -/
def execHeldInReset (_cut : List Byte) (s : State) : Host.Outcome State Fault Refusal :=
  .next { s with
    inReset := true
    mgmt := { s.mgmt with acknowledged := false, returned := [] }
    sys := { s.sys with link := none }
    mem := { s.mem with link := none }
    events := { s.events with lines := 0 } }

end Sys2Proof.Machine
end

