-- ==== Sys2Proof/Machine/Management.lean ====
section
/-! DEFINITION. The management port: what a complete register write does (R166), every row that is such a write, and the
I2C framing (R164, R165). -/

namespace Sys2Proof.Machine

/-! ## Global registers -/

/-- The lost flag is cleared; marker pending stays as it is (R128). -/
def State.clearLost (s : State) : State := { s with events := { s.events with lost := false } }

/-- The global control and status register: a one in the lost flag clears it, a one in RESET_PART is taken as
RESET_PART, both in the same event (R168; their order is log entry 7). -/
def State.writeControl (s : State) (value : Word) : State :=
  let s := if value.getLsbD 1 then s.clearLost else s
  if value.getLsbD 8 then s.takeResetPart else s

/-- The divider is stored at once; the interval in progress ends under the old one (R169). -/
def State.writeDivider (s : State) (value : Word) : State :=
  { s with time := { s.time with divider := value.extractLsb' 0 10 } }

/-- The memory timeout governs operations issued after the write (R170). -/
def State.writeMemoryTimeout (s : State) (value : Word) : State :=
  { s with mgmt := { s.mgmt with memoryTimeout := storedTimeout value } }

/-- The line enables; the lines are re-evaluated at once (R130, R170). -/
def State.writeLineEnables (s : State) (value : Word) : State :=
  State.refreshLines { s with mgmt := { s.mgmt with lineEnables := value.extractLsb' 0 4 } }

/-- The PASS_FAULT routing (R170). -/
def State.writePassFault (s : State) (value : Word) : State :=
  { s with mgmt := { s.mgmt with
    passFaultEnable := value.getLsbD 0, passFaultLine := value.extractLsb' 4 2 } }

/-! ## A complete register write -/

/-- What a complete write of a value to a register does (the table of R166). -/
def State.writeReg (s : State) (reg : Reg) (value : Word) : State :=
  match reg with
  | .unmapped | .identification | .tickCount | .occupancy | .eventHead0 | .eventHead1 | .status _ _ =>
    s.setAddrFlag
  | .control => s.writeControl value
  | .divider => s.writeDivider value
  | .memoryTimeout => s.writeMemoryTimeout value
  | .lineEnables => s.writeLineEnables value
  | .passFault => s.writePassFault value
  | .eventPop => s.popEvent value
  | .errorFlags => s.setFlags (s.mgmt.flags.clear value)
  | .structural r reg => s.whileRunning fun s => s.writeStructural r reg value
  | .live r reg => s.whileRunning fun s => s.writeLive r reg value
  | .command r => s.whileRunning fun s => s.takeCommand r (value.extractLsb' 0 4)
  | .fillCounter r c => s.whileRunning fun s => s.zeroFillCounter r c
  | .lateCounter r => s.whileRunning fun s => s.zeroLateCounter r

/-- The part's answer on SDA and the register pointer after an access (R163, R164). -/
def State.acknowledge (s : State) (pointer : BitVec 16) : State :=
  { s with mgmt := { s.mgmt with acknowledged := true, pointer := pointer } }

/-- A transaction that the part does not acknowledge: it changes nothing else (R163, R173). -/
def State.ignoreBus (s : State) : State := { s with mgmt := { s.mgmt with acknowledged := false } }

/-- The fourth byte of a data group: the write of the value to the register at an address takes effect, and the
pointer advances by 4, modulo 10000h (R164). No address is acknowledged while RST_N is low (R173). -/
def State.completeWrite (s : State) (address : BitVec 16) (reg : Reg) (value : Word) : State :=
  if s.inReset then s.ignoreBus else (s.writeReg reg value).acknowledge (address + 4)

/-- A complete write to a register at its own address (log entry 8). -/
def State.writeAt (s : State) (reg : Reg) (value : Word) : State := s.completeWrite reg.address reg value

/-! ## The rows that are one register's write -/

/-- ENABLE (R29): command code 1. -/
def execEnable (r : RingNo) (s : State) : Host.Outcome State Fault Refusal := .next (s.writeAt (.command r) 1)

/-- PAUSE (R30): command code 2. -/
def execPause (r : RingNo) (s : State) : Host.Outcome State Fault Refusal := .next (s.writeAt (.command r) 2)

/-- RESUME (R32): command code 3. -/
def execResume (r : RingNo) (s : State) : Host.Outcome State Fault Refusal := .next (s.writeAt (.command r) 3)

/-- HALT (R33): command code 4. -/
def execHalt (r : RingNo) (s : State) : Host.Outcome State Fault Refusal := .next (s.writeAt (.command r) 4)

/-- CLEAR (R36): command code 5. -/
def execClear (r : RingNo) (s : State) : Host.Outcome State Fault Refusal := .next (s.writeAt (.command r) 5)

/-- APPLY_NOW (R38): command code 6. -/
def execApplyNow (r : RingNo) (s : State) : Host.Outcome State Fault Refusal := .next (s.writeAt (.command r) 6)

/-- SNAPSHOT (R39): command code 7. -/
def execSnapshot (r : RingNo) (s : State) : Host.Outcome State Fault Refusal := .next (s.writeAt (.command r) 7)

/-- UNDEFINED_COMMAND (R28). -/
def execUndefinedCommand (r : RingNo) (code : BitVec 4) (s : State) : Host.Outcome State Fault Refusal :=
  .next (s.writeAt (.command r) (code.setWidth 32))

/-- STRUCTURAL_WRITE (R20). -/
def execStructuralWrite (r : RingNo) (reg : StructuralReg) (value : Word) (s : State) :
    Host.Outcome State Fault Refusal :=
  .next (s.writeAt (.structural r reg) value)

/-- SHADOW_WRITE (R21). -/
def execShadowWrite (r : RingNo) (reg : LiveReg) (value : Word) (s : State) :
    Host.Outcome State Fault Refusal :=
  .next (s.writeAt (.live r reg) value)

/-- COUNTER_WRITE (R67). -/
def execCounterWrite (r : RingNo) (counter : FillCounter) (value : Word) (s : State) :
    Host.Outcome State Fault Refusal :=
  .next (s.writeAt (.fillCounter r counter) value)

/-- LATE_COUNTER_WRITE (R102). -/
def execLateCounterWrite (r : RingNo) (value : Word) (s : State) : Host.Outcome State Fault Refusal :=
  .next (s.writeAt (.lateCounter r) value)

/-- RESET_PART (R171): a one in field [8] of the global control register. -/
def execResetPart (s : State) : Host.Outcome State Fault Refusal := .next (s.writeAt .control 0x100)

/-- LOST_FLAG_CLEAR (R128): a one in field [1] of the global control register. -/
def execLostFlagClear (s : State) : Host.Outcome State Fault Refusal := .next (s.writeAt .control 0x2)

/-- EVENT_POP (R132). -/
def execEventPop (value : Word) (s : State) : Host.Outcome State Fault Refusal :=
  .next (s.writeAt .eventPop value)

/-- ERROR_FLAGS_CLEAR (R167). -/
def execErrorFlagsClear (value : Word) (s : State) : Host.Outcome State Fault Refusal :=
  .next (s.writeAt .errorFlags value)

/-- TICK_DIVIDER_WRITE (R169). -/
def execTickDividerWrite (value : Word) (s : State) : Host.Outcome State Fault Refusal :=
  .next (s.writeAt .divider value)

/-- MEMORY_TIMEOUT_WRITE (R170). -/
def execMemoryTimeoutWrite (value : Word) (s : State) : Host.Outcome State Fault Refusal :=
  .next (s.writeAt .memoryTimeout value)

/-- LINE_ENABLE_WRITE (R130). -/
def execLineEnableWrite (value : Word) (s : State) : Host.Outcome State Fault Refusal :=
  .next (s.writeAt .lineEnables value)

/-- PASS_FAULT_ROUTING_WRITE (R170). -/
def execPassFaultRoutingWrite (value : Word) (s : State) : Host.Outcome State Fault Refusal :=
  .next (s.writeAt .passFault value)

/-! ## The I2C framing -/

/-- A transaction addressed to `target`: one addressed elsewhere, or while RST_N is low, is not acknowledged
and changes nothing (R163, R173). -/
def State.addressed (s : State) (target : BitVec 7) (f : State → State) : State :=
  if s.inReset = true ∨ target ≠ s.mgmt.i2cAddress then s.ignoreBus else f s

/-- REGISTER_WRITE (R164, R166): the value that the four bytes of a complete data group make is written to the
register that the pointer names. -/
def execRegisterWrite (target : BitVec 7) (value : DataGroup) (s : State) : Host.Outcome State Fault Refusal :=
  .next (s.addressed target fun s =>
    s.completeWrite s.mgmt.pointer (Reg.ofAddress s.mgmt.pointer) (groupWord value))

/-- REGISTER_POINTER_SET (R164): the first two bytes after the port's address set the pointer. -/
def execRegisterPointerSet (target : BitVec 7) (address : AddressBytes) (s : State) :
    Host.Outcome State Fault Refusal :=
  .next (s.addressed target fun s => s.acknowledge (alignPointer (registerAddress address)))

/-- The end of a write transaction, by where the STOP or repeated START falls (the table of R164). -/
def State.endWriteTransaction (s : State) : WriteStop → State
  | .noAddressByte | .noData | .afterGroup => s
  | .oneAddressByte _ | .insideGroup _ => s.setPartialFlag

/-- PARTIAL_WRITE_END (R164): the partial bytes take no effect and the pointer stays. -/
def execPartialWriteEnd (target : BitVec 7) (stop : WriteStop) (s : State) :
    Host.Outcome State Fault Refusal :=
  .next (s.addressed target fun s => (s.endWriteTransaction stop).acknowledge s.mgmt.pointer)

/-- The register the pointer names is captured whole at its first byte; the bytes the controller takes are
returned least significant first, and after the fourth the pointer advances (R165). -/
def State.readAtPointer (s : State) (bytes : Nat) : State :=
  let word := s.readReg (Reg.ofAddress s.mgmt.pointer)
  let s := s.acknowledge (if bytes < 4 then s.mgmt.pointer else s.mgmt.pointer + 4)
  { s with mgmt := { s.mgmt with returned := (wordBytes word).take bytes } }

/-- REGISTER_READ (R165). -/
def execRegisterRead (target : BitVec 7) (bytes : Nat) (s : State) : Host.Outcome State Fault Refusal :=
  .next (s.addressed target fun s => s.readAtPointer bytes)

end Sys2Proof.Machine
end

