-- ==== Sys2Proof/Machine/Admission.lean ====
section
/-! DEFINITION. The admissions: WRITE_ADMISSION, READ_ADMISSION, RE_ADMISSION (chapters 3, 4 and 5). -/

namespace Sys2Proof.Machine

/-! ## Writes -/

/-- The outcome of write admission's checks (R45). -/
inductive WriteOutcome where
  | answer (status : Status)
  | hold
  | admitted
  deriving DecidableEq, Repr

/-- The checks of write admission, in their order (the table of R45). Check 4 also answers a write whose end
lies behind F, as R48 says (log entry 6). -/
def judgeWrite (x : Ring) (master : MasterNo) (e : Extent) : WriteOutcome :=
  if x.state ≠ .active then .answer (if x.state = .halted then .halted else .stopped)
  else if x.active.producerMask.getLsbD master.val = false then .answer .refused
  else if (x.C : Int) < signedDistance x.A x.F e.stop then .answer .range
  else if IsBehind x.A x.F e.start ∨ IsBehind x.A x.F e.stop
      ∨ x.fill.any (fun f => decide (e.Intersects x.A f.extent)) = true then .answer .overlap
  else if x.BeyondRoom e.stop ∧ x.active.overrun = .block then .hold
  else if x.BeyondRoom e.stop ∧ x.active.overrun = .discard then .answer .discarded
  else if Config.scoreboardSize ≤ x.fill.length then .answer .busy
  else .admitted

/-- Steps 1 to 4 of R54: the IN_FLIGHT entry, W, K and the retirement of poison behind K (R55). -/
def Ring.placeWrite (x : Ring) (t : TxnNo) (e : Extent) : Ring :=
  let reach := if IsBeyond x.A x.W e.stop then e.stop else x.W
  let floor := positionBefore x.A reach x.C
  let x := { x with
    fill := insertEntry x.A x.F { extent := e, state := .inFlight, transactions := [t] } x.fill
    W := reach }
  if IsBeyond x.A x.K floor then { x with K := floor, poison := retirePoison x.A floor x.poison } else x

/-- The drain scoreboard is cut back to a new D (R57). -/
def cutDrain (A D : Nat) (entries : List ScoreEntry) : List ScoreEntry :=
  entries.filterMap fun e =>
    if IsBeyond A D e.extent.stop then
      if IsBehind A D e.extent.start then some { e with extent := ⟨D, e.extent.stop⟩ } else some e
    else none

/-- The overtake of a write admission with end e (R56 to R59). -/
def State.overtake (s : State) (r : RingNo) (e : Nat) : State :=
  let x := s.ring r
  let d1 := positionBefore x.A e x.C
  let a := absorbDrain d1 (cutDrain x.A d1 x.drain)
  let s := s.setRing r { x with drain := a.1, D := a.2 }
  let stale : HoldEntry → Bool := fun h =>
    h.ring = r && h.reason = .underrun &&
      match (s.txn h.transaction).bind Txn.range with
      | some range => decide (IsBehind x.A x.K range.start)
      | none => false
  let s := s.answerHeld stale fun _ => .stale
  let s := s.setRing r { s.ring r with overtakeCount := countUp (s.ring r).overtakeCount }
  let s := s.raise r .overtaken (some d1) (.bytes (distance x.A x.D d1))
  let s := s.evaluateLevel r
  s.releaseScan r HoldReason.isRoom

/-- A write that passed every check is admitted (R54). -/
def State.admitWrite (s : State) (t : TxnNo) (x : Txn) (r : RingNo) (e : Extent) : State :=
  let overtakes : Bool := decide ((s.ring r).BeyondRoom e.stop) && (s.ring r).active.overrun == .overtake
  let s := s.setRing r ((s.ring r).placeWrite t e)
  let s := if overtakes then s.overtake r e.stop else s
  s.enqueueParts t x .ring

/-- The admission of a ring write, fresh or repeated: a request marked cleared is answered STOPPED without a
check (R3), and any other is judged by the checks of R45. -/
def State.takeWrite (s : State) (t : TxnNo) (x : Txn) (r : RingNo) (e : Extent) : State :=
  if x.cleared then s.answer t .stopped
  else
    match judgeWrite (s.ring r) x.master e with
    | .answer .refused => (s.setTxn t (some { x with cls := some .reject })).answer t .refused
    | .answer .discarded =>
      (s.setRing r { s.ring r with discardCount := countUp (s.ring r).discardCount }).answer t .discarded
    | .answer status => s.answer t status
    | .hold => s.askHold t x r .room
    | .admitted => s.admitWrite t x r e

/-! ## Reads -/

/-- The outcome of read admission's checks (R73). -/
inductive ReadOutcome where
  | answer (status : Status)
  | hold
  | poisoned
  | admitted
  deriving DecidableEq, Repr

/-- The class that an admission gives a ring read (R69). -/
def readClass (x : Ring) (master : MasterNo) : RequestClass :=
  if x.state = .off then .reject
  else if x.active.consumerMask.getLsbD master.val then .consume
  else if x.active.observerMask.getLsbD master.val then .peek
  else .reject

/-- The consume part of a read: `none` when it is empty or the read is no consuming read (the table of R70). A range
whose start is at or ahead of D while its end is at or behind D meets the first row and the third; the third is taken,
so that a consume part always ends beyond D (log entry 12). -/
def consumePart (x : Ring) (cls : RequestClass) (e : Extent) : Option Extent :=
  if cls = .consume ∧ IsBeyond x.A x.D e.stop then
    if IsAtOrAhead x.A x.D e.start then some e else some ⟨x.D, e.stop⟩
  else none

/-- The checks of read admission, in their order (the table of R73). -/
def judgeRead (x : Ring) (cls : RequestClass) (e : Extent) : ReadOutcome :=
  if x.state = .halted then .answer .halted
  else if x.state = .clearing ∨ x.state = .off then .answer .stopped
  else if cls = .reject then .answer .refused
  else if IsBehind x.A x.K e.start then .answer .stale
  else if (x.C : Int) < signedDistance x.A x.D e.stop then .answer .range
  else if x.BeyondFill e.stop then
    if cls = .consume ∧ x.active.underrun = .wait ∧ x.state = .active then .hold else .answer .empty
  else if (consumePart x cls e).any (fun c => x.drain.any fun f => decide (c.Intersects x.A f.extent)) = true then
    .answer .overlap
  else if (consumePart x cls e).isSome ∧ Config.scoreboardSize ≤ x.drain.length then .answer .busy
  else if x.poison.any (fun p => decide (e.Intersects x.A p)) = true then .poisoned
  else .admitted

/-- An entry for a consume part joins the drain scoreboard at its sorted place (R82, R81). -/
def Ring.placeRead (x : Ring) (t : TxnNo) (part : Option Extent) (state : EntryState) : Ring :=
  match part with
  | some c => { x with drain := insertEntry x.A x.D { extent := c, state := state, transactions := [t] } x.drain }
  | none => x

/-- A read answered POISONED; a consuming read consumes its consume part as if it had landed (R81). -/
def State.poisonedRead (s : State) (t : TxnNo) (r : RingNo) (part : Option Extent) : State :=
  let s := s.answer t .poisoned
  match part with
  | none => s
  | some c =>
    let x := (s.ring r).placeRead t (some c) .landed
    (s.setRing r { x with drain := mergeLanded x.drain }).absorbReads r

/-- The admission of a ring read, fresh or repeated: its class is set anew (R69); a request marked cleared is
answered STOPPED without a check (R3), and any other is judged by the checks of R73. -/
def State.takeRead (s : State) (t : TxnNo) (x : Txn) (r : RingNo) (e : Extent) : State :=
  let cls := readClass (s.ring r) x.master
  let x := { x with cls := some cls }
  let s := s.setTxn t (some x)
  if x.cleared then s.answer t .stopped
  else
    let part := consumePart (s.ring r) cls e
    match judgeRead (s.ring r) cls e with
    | .answer status => s.answer t status
    | .hold => s.askHold t x r .underrun
    | .poisoned => s.poisonedRead t r part
    | .admitted => (s.setRing r ((s.ring r).placeRead t part .inFlight)).enqueueParts t x .ring

/-! ## The three events -/

/-- The oldest ring request whose admission is not yet taken, when its direction is the given one; the ring
engine takes admissions in the order of acceptance (R3). Its reservation is returned with its place (R137). -/
def State.takeOldestAdmission (s : State) (direction : Direction)
    (take : State → TxnNo → Txn → RingNo → Extent → State) : State :=
  match s.awaiting with
  | [] => s
  | t :: rest =>
    match s.txn t with
    | none => s
    | some x =>
      match x.ring, x.range with
      | some r, some e => if x.direction = direction then take { s with awaiting := rest } t x r e else s
      | _, _ => s

/-- WRITE_ADMISSION (R45). With no ring write at the head of the admissions the event does not occur. -/
def execWriteAdmission (s : State) : Host.Outcome State Fault Refusal :=
  .next (s.outOfReset fun s => s.takeOldestAdmission .write State.takeWrite)

/-- READ_ADMISSION (R73). With no ring read at the head of the admissions the event does not occur. -/
def execReadAdmission (s : State) : Host.Outcome State Fault Refusal :=
  .next (s.outOfReset fun s => s.takeOldestAdmission .read State.takeRead)

/-- The full admission of a held request whose entry has left the pool; a write's data come from the slot's
store (R99). -/
def State.admitHeld (s : State) (h : HoldEntry) : State :=
  match s.txn h.transaction with
  | none => s
  | some x =>
    match x.range with
    | none => s
    | some e =>
      match x.direction with
      | .write =>
        let x := { x with data := s.pool.stores[h.slot.val].take x.length }
        s.takeWrite h.transaction x h.ring e
      | .read => s.takeRead h.transaction x h.ring e

/-- The head of the released list is re-admitted when the issue queue has two free entries (R98, R99). -/
def State.readmitHead (s : State) : State :=
  if 2 ≤ s.freeEntries then
    match s.pool.released with
    | [] => s
    | slot :: _ =>
      match s.pool.entries.find? (fun h => h.slot = slot) with
      | none => s
      | some h => State.admitHeld { s with pool := s.pool.remove [h] } h
  else s

/-- RE_ADMISSION (R99). With no released entry, or no room, the event does not occur. -/
def execReAdmission (s : State) : Host.Outcome State Fault Refusal :=
  .next (s.outOfReset State.readmitHead)

end Sys2Proof.Machine
end

