-- ==== Sys2Proof/Machine/SystemPort.lean ====
section
/-! DEFINITION. The system port: REQUEST_ACCEPTANCE with the protocol checks and the aperture decoder, and
RESPONSE_DELIVERY (chapters 1 and 8). -/

namespace Sys2Proof.Machine

/-! ## The aperture decoder -/

/-- The five request classes (1.1). -/
inductive Classification where
  | straddling
  | ringRequest (ring : RingNo)
  | guarded
  | passThrough
  deriving DecidableEq, Repr

/-- Some byte of the range lies in the ring's aperture. -/
abbrev Ring.MeetsAperture (x : Ring) (address length : Nat) : Prop :=
  RangesMeet address length x.structural.apertureBase.toNat x.A

/-- Every byte of the range lies in the ring's aperture. -/
abbrev Ring.HoldsInAperture (x : Ring) (address length : Nat) : Prop :=
  RangeWithin address length x.structural.apertureBase.toNat x.A

/-- The tests of the aperture decoder, in their order (the table of R2). -/
def State.classify (s : State) (address length : Nat) : Classification :=
  if Config.addressSpace < address + length then .straddling
  else if s.rings.toList.any (fun x => x.state != .off && decide (x.MeetsAperture address length)
      && !decide (x.HoldsInAperture address length)) then .straddling
  else
    match (List.finRange 16).find? (fun r => (s.ring r).state != .off
        && decide ((s.ring r).HoldsInAperture address length)) with
    | some r => .ringRequest r
    | none => if s.guarded address length then .guarded else .passThrough

/-! ## Acceptance -/

/-- The acceptance conditions of R136 but for the free transaction entry. -/
def State.accepts (s : State) (m : MasterNo) : Bool :=
  s.part == .running && decide (s.sys.undelivered[m.val] < Config.undeliveredLimit)
    && decide (2 ≤ s.freeEntries) && s.pool.released.isEmpty

/-- The transaction entry as acceptance records it (R137, R140). -/
def acceptedTxn (q : Request) (data : List Byte) : Txn where
  master := q.master
  tag := q.tag
  direction := q.direction
  address := q.address
  length := q.length.toNat
  cls := none
  ring := none
  range := none
  cleared := false
  parts := []
  outstanding := 0
  data := data
  stage := .accepted
  status := none

/-- Another request of the same master with the same tag is undelivered (R139). -/
def State.tagClash (s : State) (q : Request) : Bool :=
  s.sys.table.toList.any fun o => o.any fun x => x.master = q.master && x.tag = q.tag

/-- The entry after its classification, in the acceptance event (R3 to R6, R142). A ring request is handed
to the ring engine with its two reserved entries; every other class returns what it does not take. -/
def State.decodeRequest (s : State) (t : TxnNo) (x : Txn) : State :=
  match s.classify x.address.toNat x.length with
  | .straddling => (s.setTxn t (some { x with cls := some .reject })).answer t .protocol
  | .guarded => (s.setTxn t (some { x with cls := some .reject })).answer t .refused
  | .ringRequest r =>
    let c := (s.ring r).structural
    let start := x.address.toNat - c.apertureBase.toNat
    let s := s.setTxn t (some { x with
      cls := match x.direction with
        | .write => some .ringWrite
        | .read => none
      ring := some r
      range := some (streamRange c.apertureSize start x.length)
      parts := foldParts c start x.length })
    { s with awaiting := s.awaiting ++ [t] }
  | .passThrough =>
    s.enqueueParts t { x with
      cls := some .pass
      parts := [{ memAddress := x.address.toNat, length := x.length, range := none,
                  result := .pending, data := [] }] } .passThrough

/-- The bytes that acceptance records: a write's, as its link carries them (R135, R137). -/
def State.requestData (s : State) (q : Request) : List Byte :=
  match q.direction with
  | .write => s.linkBytes q.length.toNat q.data
  | .read => []

/-- The free-value counter after a request's bytes were taken from its link. -/
def State.countRequest (s : State) (q : Request) : State :=
  match q.direction with
  | .write => s.countMissing q.length.toNat q.data
  | .read => s

/-- Acceptance into a free entry (R137), with the protocol checks (R139) and the classification (R1). -/
def State.acceptInto (s : State) (t : TxnNo) (q : Request) : State :=
  let clash := s.tagClash q
  let n := q.length.toNat
  let x := acceptedTxn q (s.requestData q)
  let s := (s.countRequest q).setTxn t (some x)
  let s := s.setUndelivered q.master (s.sys.undelivered[q.master.val] + 1)
  if n = 0 ∨ Config.longestRequest < n ∨ clash = true then s.answer t .protocol
  else s.decodeRequest t x

/-- The request at the front of its master's link is accepted when the five conditions hold, and otherwise
waits on the link and changes nothing (R136). -/
def State.acceptRequest (s : State) (q : Request) : State :=
  if s.accepts q.master then
    match s.freeTxn with
    | some t => s.acceptInto t q
    | none => s
  else s

/-- REQUEST_ACCEPTANCE (R137). -/
def execRequestAcceptance (q : Request) (s : State) : Host.Outcome State Fault Refusal :=
  .next (s.outOfReset fun s => s.acceptRequest q)

/-! ## Delivery -/

/-- The response of a READY entry (R135, R145). -/
def Txn.response (x : Txn) : Response where
  master := x.master
  tag := x.tag
  status := x.status.getD .done
  data := x.data

/-- The head of the ready order is delivered, its entry freed and its master's count lowered (R146); the
completion test of the part reset follows (R172). -/
def State.deliverHead (s : State) : State :=
  match s.sys.readyOrder with
  | [] => s
  | t :: rest =>
    match s.txn t with
    | none => s
    | some x =>
      let s := s.setTxn t none
      let s := { s with sys := { s.sys with readyOrder := rest, link := some x.response } }
      let s := s.setUndelivered x.master (s.sys.undelivered[x.master.val] - 1)
      s.testResetCompletion

/-- RESPONSE_DELIVERY (R146). With no READY entry the event does not occur. -/
def execResponseDelivery (s : State) : Host.Outcome State Fault Refusal :=
  .next (s.outOfReset State.deliverHead)

end Sys2Proof.Machine
end

