-- ==== Sys2Proof/Machine/MemoryPort.lean ====
section
/-! DEFINITION. The memory port: ISSUE_HEAD, MEMORY_RESPONSE, RESPONSE_TIMEOUT (chapter 9), with the report of each end
to its owner (R160). -/

namespace Sys2Proof.Machine

/-! ## Issue -/

/-- The lowest-numbered id that is not in use, orphans' ids counted as in use (R156). -/
def MemoryPort.freeId (p : MemoryPort) : Option OpId :=
  (List.finRange 48).find? fun i => p.outstanding.all fun o => o.id ≠ i

/-- The head may not be issued beside an outstanding operation: they overlap, the other is no orphan, and one
of the two is a write (R154 step 3, R155). -/
def Operation.conflicts (op : Operation) (o : Outstanding) : Bool :=
  o.condition = .live && (op.direction = .write || o.direction = .write)
    && decide (RangesMeet op.address op.length o.address o.length)

/-- The head is issued under an id (R156). -/
def State.issue (s : State) (op : Operation) (rest : List Operation) (id : OpId) : State :=
  let record : Outstanding := {
    id := id
    transaction := op.transaction
    part := op.part
    direction := op.direction
    address := op.address
    length := op.length
    deadline := s.time.count + s.mgmt.memoryTimeout.setWidth 32
    condition := .live }
  let sent : LinkOperation := {
    id := id, direction := op.direction, address := op.address, length := op.length, data := op.data }
  let s := { s with mem := { s.mem with
    queue := rest, outstanding := s.mem.outstanding ++ [record], link := some sent } }
  match s.txn op.transaction with
  | some x =>
    if x.stage = .queued then s.setTxn op.transaction (some { x with stage := .outstanding }) else s
  | none => s

/-- The head of the issue queue is considered (the table of R154); a refusal is followed by the completion
test of the part reset (R172). A refused request keeps the class PASS, its part and its count of parts outstanding
in the READY entry (R141); that R7's "exactly as if it had been guarded at classification" covers the status alone is
the model's choice (log entry 26). -/
def State.considerHead (s : State) : State :=
  match s.mem.queue with
  | [] => s
  | op :: rest =>
    if op.cls = .passThrough ∧ s.guarded op.address op.length = true then
      (State.answer { s with mem := { s.mem with queue := rest } } op.transaction .refused).testResetCompletion
    else
      match s.mem.freeId with
      | none => s
      | some id => if s.mem.outstanding.any op.conflicts then s else s.issue op rest id

/-- ISSUE_HEAD (R154). With an empty queue the event does not occur. -/
def execIssueHead (s : State) : Host.Outcome State Fault Refusal :=
  .next (s.outOfReset State.considerHead)

/-! ## Ends and their report -/

/-- How an operation ended: OK with a read's data, or failed (R157, R158). -/
inductive OpEnd where
  | ok (data : List Byte)
  | failed
  deriving DecidableEq, Repr

def PartNo.index : PartNo → Nat
  | .first => 0
  | .second => 1

/-- The part with its end result and, for an OK read part, its data (R83). -/
def Part.ended (p : Part) : OpEnd → Part
  | .ok data => { p with result := .ok, data := data }
  | .failed => { p with result := .failed, data := [] }

/-- The transaction entry records a part's end and lowers its count of parts outstanding (R60, R83, R143). -/
def Txn.endPart (x : Txn) (part : PartNo) (e : OpEnd) : Txn :=
  { x with
    parts := x.parts.modify part.index fun p => p.ended e
    outstanding := x.outstanding - 1 }

/-- Every part ended OK (R13). -/
def Txn.allOk (x : Txn) : Bool := x.parts.all fun p => p.result = .ok

/-- The data of the parts joined in stream order (R83). -/
def Txn.joined (x : Txn) : List Byte := x.parts.flatMap Part.data

/-- The end of a pass-through part forms its response; a failure offers PASS_FAULT (R143, R119). -/
def State.endPassThrough (s : State) (t : TxnNo) (x : Txn) : State :=
  if x.allOk then s.answer t .done x.joined
  else
    let s := s.answer t .fault
    if s.mgmt.passFaultEnable then
      s.offer .passFault none s.mgmt.passFaultLine none (.source x.master x.tag)
    else s

/-- The end of a ring request's last part (R13): a write's or a read's. -/
def State.endRingRequest (s : State) (r : RingNo) (t : TxnNo) (x : Txn) : State :=
  match x.direction with
  | .write => s.endWrite r t x.allOk
  | .read => s.endRead r t x.allOk x.joined

/-- An end is reported to the operation's owner (R160). While parts are outstanding nothing more follows; the
last end forms the response. The clear-end test and the part reset's completion test come after (R37, R172). -/
def State.reportEnd (s : State) (t : TxnNo) (part : PartNo) (e : OpEnd) : State :=
  match s.txn t with
  | none => s.testResetCompletion
  | some x =>
    let x := x.endPart part e
    let s := s.setTxn t (some x)
    match x.ring with
    | none =>
      let s := if x.outstanding = 0 then s.endPassThrough t x else s
      s.testResetCompletion
    | some r =>
      let s := if x.outstanding = 0 then s.endRingRequest r t x else s
      (s.testClearEnd r).testResetCompletion

/-- The operation stops being outstanding and its id is free (R157, R159). -/
def State.freeOperation (s : State) (id : OpId) : State :=
  { s with mem := { s.mem with outstanding := s.mem.outstanding.filter fun o => o.id ≠ id } }

/-- The operation becomes an orphan: its id stays in use and the overlap check stops counting it (R158). -/
def State.orphan (s : State) (id : OpId) : State :=
  { s with mem := { s.mem with
    outstanding := s.mem.outstanding.map fun o => if o.id = id then { o with condition := .orphan } else o } }

/-- A memory response, matched by its id: it ends a live operation, frees an orphan's id, or answers nothing
(R157, R159). -/
def State.takeResponse (s : State) (id : BitVec 6) (status : MemoryStatus) (data : List Byte) : State :=
  match s.mem.outstanding.find? (fun o => o.id.val = id.toNat) with
  | none => s
  | some o =>
    match o.condition with
    | .orphan => s.freeOperation o.id
    | .live =>
      match status, o.direction with
      | .ok, .read =>
        ((s.countMissing o.length data).freeOperation o.id).reportEnd o.transaction o.part
          (.ok (s.linkBytes o.length data))
      | .ok, .write => (s.freeOperation o.id).reportEnd o.transaction o.part (.ok [])
      | .error, _ => (s.freeOperation o.id).reportEnd o.transaction o.part .failed

/-- MEMORY_RESPONSE (R157). -/
def execMemoryResponse (id : BitVec 6) (status : MemoryStatus) (data : List Byte) (s : State) :
    Host.Outcome State Fault Refusal :=
  .next (s.outOfReset fun s => s.takeResponse id status data)

/-- The live operations whose deadline is the tick count, in the order of their issue (R158). -/
def State.expiringOperations (s : State) : List Outstanding :=
  s.mem.outstanding.filter fun o => o.condition = .live && o.deadline = s.time.count

/-- The memory port takes an advance of the tick count: every live operation whose deadline equals it is
reported failed and becomes an orphan (R158). -/
def State.takeTimeouts (s : State) : State :=
  s.expiringOperations.foldl (fun s o => (s.orphan o.id).reportEnd o.transaction o.part .failed) s

/-- RESPONSE_TIMEOUT (R158). -/
def execResponseTimeout (s : State) : Host.Outcome State Fault Refusal :=
  .next (s.outOfReset State.takeTimeouts)

end Sys2Proof.Machine
end

