-- ==== Sys2Proof/Machine/Timebase.lean ====
section
/-! DEFINITION. The timebase and the hold pool's deadlines: TICK (R169) and EXPIRY (R100). -/

namespace Sys2Proof.Machine

/-- The entry expires as the pool takes the advance to the present tick count (R100). -/
def State.expires (s : State) (h : HoldEntry) : Bool := h.state = .waiting && h.deadline = s.time.count

/-- The late counter of a ring counts one expiry (R102). -/
def State.countLate (s : State) (r : RingNo) : State :=
  s.setRing r { s.ring r with lateCount := countUp (s.ring r).lateCount }

/-- The pool takes an advance of the tick count: every WAITING entry whose deadline equals it is answered LATE,
in grant order, and its ring's late counter is incremented (R100, R102). -/
def State.takeExpiries (s : State) : State :=
  let gone := s.pool.entries.filter s.expires
  let s := s.answerHeld s.expires fun _ => .late
  gone.foldl (fun s h => s.countLate h.ring) s

/-- EXPIRY (R100). -/
def execExpiry (s : State) : Host.Outcome State Fault Refusal :=
  .next (s.outOfReset State.takeExpiries)

/-- What an advance of the tick count asks of the pool and of the memory port is taken, where it is not taken
yet, before the next tick comes. Where both still have something to take, which of them is first is a free
value (log entry 2). -/
def State.settleAdvance (s : State) : State :=
  if s.pool.entries.any s.expires ∧ s.expiringOperations ≠ [] then
    let t := { s with freeCount := s.freeCount + 1 }
    if Config.poolTakesTickFirst s.freeCount then t.takeExpiries.takeTimeouts
    else t.takeTimeouts.takeExpiries
  else s.takeExpiries.takeTimeouts

/-- A tick: the tick count advances by one, and the next interval begins under the divider as written (R169). -/
def State.advanceCount (s : State) : State :=
  { s with time := { s.time with
    count := s.time.count + 1, cycles := 0, intervalDivider := s.time.divider } }

/-- One REFCLK cycle is counted; a tick occurs when the count reaches the interval's divider + 1 (R169). -/
def State.refclkCycle (s : State) : State :=
  if s.time.intervalDivider.toNat ≤ s.time.cycles then s.settleAdvance.advanceCount
  else { s with time := { s.time with cycles := s.time.cycles + 1 } }

/-- A number of REFCLK cycles is counted, one after another. -/
def State.refclkCycles (s : State) : Nat → State
  | 0 => s
  | n + 1 => s.refclkCycle.refclkCycles n

/-- TICK (R169). No interval runs while RST_N is low: the first begins at its release. -/
def execTick (cycles : Nat) (s : State) : Host.Outcome State Fault Refusal :=
  .next (s.outOfReset fun s => s.refclkCycles cycles)

end Sys2Proof.Machine
end

