-- ==== Sys2Proof/Machine/Dispatch.lean ====
section
/-! DEFINITION. One arm per command: the meaning of each row of spec/opcode_table.json. -/

namespace Sys2Proof.Machine

def exec (i : Instr) (s : State) : Host.Outcome State Fault Refusal :=
  match i with
  | .hardwareReset addr1 addr0 => Sys2Proof.Machine.execHardwareReset addr1 addr0 s
  | .requestAcceptance request => Sys2Proof.Machine.execRequestAcceptance request s
  | .writeAdmission => Sys2Proof.Machine.execWriteAdmission s
  | .readAdmission => Sys2Proof.Machine.execReadAdmission s
  | .reAdmission => Sys2Proof.Machine.execReAdmission s
  | .issueHead => Sys2Proof.Machine.execIssueHead s
  | .memoryResponse id status data => Sys2Proof.Machine.execMemoryResponse id status data s
  | .drainEnd ring => Sys2Proof.Machine.execDrainEnd ring s
  | .clearEnd ring => Sys2Proof.Machine.execClearEnd ring s
  | .tick cycles => Sys2Proof.Machine.execTick cycles s
  | .expiry => Sys2Proof.Machine.execExpiry s
  | .responseTimeout => Sys2Proof.Machine.execResponseTimeout s
  | .responseDelivery => Sys2Proof.Machine.execResponseDelivery s
  | .enable ring => Sys2Proof.Machine.execEnable ring s
  | .pause ring => Sys2Proof.Machine.execPause ring s
  | .resume ring => Sys2Proof.Machine.execResume ring s
  | .halt ring => Sys2Proof.Machine.execHalt ring s
  | .clear ring => Sys2Proof.Machine.execClear ring s
  | .applyNow ring => Sys2Proof.Machine.execApplyNow ring s
  | .snapshot ring => Sys2Proof.Machine.execSnapshot ring s
  | .undefinedCommand ring code => Sys2Proof.Machine.execUndefinedCommand ring code s
  | .structuralWrite ring reg value => Sys2Proof.Machine.execStructuralWrite ring reg value s
  | .shadowWrite ring reg value => Sys2Proof.Machine.execShadowWrite ring reg value s
  | .counterWrite ring counter value => Sys2Proof.Machine.execCounterWrite ring counter value s
  | .lateCounterWrite ring value => Sys2Proof.Machine.execLateCounterWrite ring value s
  | .resetPart => Sys2Proof.Machine.execResetPart s
  | .partResetCompletion => Sys2Proof.Machine.execPartResetCompletion s
  | .lostFlagClear => Sys2Proof.Machine.execLostFlagClear s
  | .eventPop value => Sys2Proof.Machine.execEventPop value s
  | .errorFlagsClear value => Sys2Proof.Machine.execErrorFlagsClear value s
  | .tickDividerWrite value => Sys2Proof.Machine.execTickDividerWrite value s
  | .memoryTimeoutWrite value => Sys2Proof.Machine.execMemoryTimeoutWrite value s
  | .lineEnableWrite value => Sys2Proof.Machine.execLineEnableWrite value s
  | .passFaultRoutingWrite value => Sys2Proof.Machine.execPassFaultRoutingWrite value s
  | .registerWrite target value => Sys2Proof.Machine.execRegisterWrite target value s
  | .registerPointerSet target address => Sys2Proof.Machine.execRegisterPointerSet target address s
  | .partialWriteEnd target stop => Sys2Proof.Machine.execPartialWriteEnd target stop s
  | .heldInReset cut => Sys2Proof.Machine.execHeldInReset cut s
  | .registerRead target bytes => Sys2Proof.Machine.execRegisterRead target bytes s

end Sys2Proof.Machine
end

