-- ==== Sys2Proof/Safety.lean ====
section
/-! DEFINITION. What counts as a well-formed state of the part: the bounds, orders and agreements that the spec says hold
at all times. Each is stated over one block, and none of them is assumed by a meaning. -/

namespace Sys2Proof.Machine

/-! ## The event queue and the event lines -/

/-- The sequence numbers are consecutive modulo 256 from head to tail, and the counter is the next one (R126). -/
def EventQueue.Consecutive (q : EventQueue) : Prop :=
  ∀ i, (h : i < q.records.length) →
    q.records[i].sequence + BitVec.ofNat 8 (q.records.length - i) = q.nextSequence

/-- At most 32 records, numbered consecutively (R126). -/
structure EventQueue.WellFormed (q : EventQueue) : Prop where
  bounded : q.records.length ≤ Config.eventQueueSize
  consecutive : q.Consecutive

/-- Each event line is asserted exactly when the queue holds a record routed to it and it is enabled (R130),
and all are deasserted while RST_N is low (R173). -/
def State.LinesAgree (s : State) : Prop :=
  s.events.lines = if s.inReset then 0 else lineLevels s.events.records s.mgmt.lineEnables

/-! ## The memory port -/

/-- Two outstanding operations that the overlap check keeps apart (R154, R155). -/
def Outstanding.Apart (a b : Outstanding) : Prop :=
  a.condition = .live → b.condition = .live → (a.direction = .write ∨ b.direction = .write) →
    ¬ RangesMeet a.address a.length b.address b.length

/-- No two operations in use share an id, and no two live operations overlap where either is a write (R154). -/
structure MemoryPort.Safe (p : MemoryPort) : Prop where
  distinctIds : (p.outstanding.map Outstanding.id).Nodup
  apart : p.outstanding.Pairwise Outstanding.Apart

/-- The issue queue is not over-filled: occupied and reserved entries are at most 16 (R152). -/
def State.QueueFits (s : State) : Prop :=
  s.mem.queue.length + s.reserved ≤ Config.issueQueueSize

/-! ## The rings -/

/-- The scoreboards hold at most 12 entries and the poison list at most 4 (R43, R71, R111). -/
structure Ring.Bounded (x : Ring) : Prop where
  fill : x.fill.length ≤ Config.scoreboardSize
  drain : x.drain.length ≤ Config.scoreboardSize
  poison : x.poison.length ≤ Config.poisonSize

def State.RingsBounded (s : State) : Prop := ∀ r, (s.ring r).Bounded

/-- Drain entries are IN_FLIGHT or LANDED, never VOID (R71). -/
def State.DrainNeverVoid (s : State) : Prop :=
  ∀ r, ∀ e ∈ (s.ring r).drain, e.state ≠ .void

/-- The relations of the four frontiers (R14): going forward along the stream from K, the frontiers D, F and W are met
in this order within C bytes, so that every distance between two of them lies in 0..C. -/
def Ring.FrontiersOrdered (x : Ring) : Prop :=
  distance x.A x.K x.D + distance x.A x.D x.F + distance x.A x.F x.W ≤ x.C

/-- The level monitor's side agrees with the level (R122). -/
def Ring.SideAgrees (x : Ring) : Prop :=
  match x.side with
  | .low => x.level < x.active.highMark.toNat
  | .high => x.active.lowMark.toNat < x.level

/-- Extents that lie within [start, stop), in stream order and disjoint (R43, R71, R111). -/
structure InOrder (A start stop : Nat) (extents : List Extent) : Prop where
  within : ∀ e ∈ extents, e.start < A ∧ e.stop < A ∧ distance A start e.start < distance A start e.stop
    ∧ distance A start e.stop ≤ distance A start stop
  apart : extents.Pairwise fun e f => distance A start e.stop ≤ distance A start f.start

/-- What holds of every ring not OFF: the sizes that ENABLE required (R26), the frontiers in order (R14), the fill
entries within [F, W) (R43), the drain entries within [D, F) (R71), the poison entries within [K, F) (R111), the low
mark below the high mark (R22, R26) and the side in agreement with the level (R122). -/
structure Ring.StreamSound (x : Ring) : Prop where
  sizes : Config.longestRequest ≤ x.C ∧ 4 * x.C ≤ x.A
  positions : x.D < x.A ∧ x.F < x.A ∧ x.W < x.A ∧ x.K < x.A
  frontiers : x.FrontiersOrdered
  fill : InOrder x.A x.F x.W (x.fill.map ScoreEntry.extent)
  drain : InOrder x.A x.D x.F (x.drain.map ScoreEntry.extent)
  poison : InOrder x.A x.K x.F x.poison
  marks : x.active.lowMark.toNat < x.active.highMark.toNat
  side : x.SideAgrees

def State.StreamsSound (s : State) : Prop := ∀ r, (s.ring r).state ≠ .off → (s.ring r).StreamSound

/-! ## The hold pool -/

/-- A slot holds one entry, and the released list names the RELEASED entries, each once (R91, R93). -/
structure HoldPool.WellFormed (p : HoldPool) : Prop where
  slots : (p.entries.map HoldEntry.slot).Nodup
  released : p.released.Nodup
  listed : ∀ i, i ∈ p.released ↔ ∃ h ∈ p.entries, h.slot = i ∧ h.state = .released

/-- Every held entry belongs to a ring in ACTIVE (R91). -/
def State.HeldOnlyActive (s : State) : Prop :=
  ∀ h ∈ s.pool.entries, (s.ring h.ring).state = .active

/-! ## The transaction table -/

/-- A master's undelivered count is the number of entries that hold its requests, at most 16 (R144, R147). -/
def State.CountsAgree (s : State) : Prop :=
  ∀ m : MasterNo,
    s.sys.undelivered[m.val] = s.sys.table.toList.countP (fun o => o.any fun x => x.master = m)
      ∧ s.sys.undelivered[m.val] ≤ Config.undeliveredLimit

/-- A stream range as a request of the ring has it: 1 to 256 bytes (R10, R135). -/
def Ring.Fits (x : Ring) (e : Extent) : Prop :=
  e.start < x.A ∧ e.stop < x.A ∧ 0 < e.length x.A ∧ e.length x.A ≤ Config.longestRequest

/-- How often a transaction entry is named: among the admissions not yet taken, by hold entries, by operations queued
or live, in the ready order. -/
def State.placesOf (s : State) (t : TxnNo) : Nat × Nat × Nat × Nat :=
  (s.awaiting.count t,
   s.pool.entries.countP fun h => h.transaction = t,
   (s.mem.queue.countP fun o => o.transaction = t)
     + s.mem.outstanding.countP fun o => o.condition = .live ∧ o.transaction = t,
   s.sys.readyOrder.count t)

/-- How often an entry's stage says that it is named (R141): once in the place of its stage, or by its parts
outstanding. -/
def Txn.places (x : Txn) : Nat × Nat × Nat × Nat :=
  match x.stage with
  | .accepted => (1, 0, 0, 0)
  | .held => (0, 1, 0, 0)
  | .queued | .outstanding => (0, 0, x.outstanding, 0)
  | .ready => (0, 0, 0, 1)

/-- Every transaction entry is in the one place that its stage names, and a free entry in none (R140, R141). -/
structure State.EntriesPlaced (s : State) : Prop where
  places : ∀ t, s.placesOf t = ((s.txn t).map Txn.places).getD (0, 0, 0, 0)
  /-- A status is formed in the event that makes an entry READY, and while parts are out their count is not 0. -/
  stages : ∀ t, ∀ x ∈ s.txn t,
    (x.status ≠ none ↔ x.stage = .ready) ∧ (x.stage = .queued ∨ x.stage = .outstanding → 0 < x.outstanding)
  /-- A request before its admission, or held, is a ring's, in one or two parts; unless marked cleared it is within
  the aperture of a ring not OFF. -/
  requests : ∀ t, ∀ x ∈ s.txn t, x.stage = .accepted ∨ x.stage = .held →
    (x.parts.length = 1 ∨ x.parts.length = 2)
      ∧ ∃ r ∈ x.ring, ∃ e ∈ x.range, x.cleared = false → (s.ring r).state ≠ .off ∧ (s.ring r).Fits e
  holds : ∀ h ∈ s.pool.entries, s.ringOf h.transaction = some h.ring
  passing : ∀ o ∈ s.mem.queue, o.cls = .passThrough →
    ∃ x ∈ s.txn o.transaction, x.ring = none ∧ x.outstanding = 1
  ids : (s.mem.outstanding.map Outstanding.id).Nodup

/-! ## The address map -/

/-- The address law: no two rings not OFF have apertures or memory spans that meet, and no memory span of such a ring
meets the aperture of any ring not OFF, its own included (R26). -/
structure State.AddressLaw (s : State) : Prop where
  apart : ∀ q r : RingNo, q ≠ r → (s.ring q).state ≠ .off → (s.ring r).state ≠ .off →
    ¬ RangesMeet (s.ring q).apertureStart (s.ring q).A (s.ring r).apertureStart (s.ring r).A
      ∧ ¬ RangesMeet (s.ring q).spanStart (s.ring q).C (s.ring r).spanStart (s.ring r).C
  spans : ∀ q r : RingNo, (s.ring q).state ≠ .off → (s.ring r).state ≠ .off →
    ¬ RangesMeet (s.ring q).spanStart (s.ring q).C (s.ring r).apertureStart (s.ring r).A

/-- A CLEARING ring has an operation queued or live: a clear with none ends in the event that finds none (R36, R37). -/
def State.ClearingIsBusy (s : State) : Prop :=
  ∀ r : RingNo, (s.ring r).state = .clearing → s.ringBusy r = true

/-- While the part is RESETTING every ring is OFF or CLEARING (R42, R171). -/
def State.ResettingClears (s : State) : Prop :=
  s.part = .resetting → ∀ r : RingNo, (s.ring r).state = .off ∨ (s.ring r).state = .clearing

/-- What keeps the streams of all rings sound from step to step: the transaction entries in their places, held entries
in ACTIVE rings, clears that end, and the streams themselves. -/
structure State.Sound (s : State) : Prop where
  entries : s.EntriesPlaced
  held : s.HeldOnlyActive
  clearing : s.ClearingIsBusy
  resetting : s.ResettingClears
  streams : s.StreamsSound

/-! ## The management port -/

/-- The register pointer names a register: its two low bits are 0 (R163). -/
def State.PointerAligned (s : State) : Prop := alignPointer s.mgmt.pointer = s.mgmt.pointer

end Sys2Proof.Machine
end

