-- ==== Sys2Proof/Certificates/Slice0/Obligations.lean ====
section
/-! DEFINITION. The statements for the provers. Each says what a command or the part does, for every state and operand
that meets the stated conditions; a next state is given whole, as an equation, or field by field with an equation
that says which fields may differ. -/

open Sys2Proof Sys2Proof.Machine

/-! ## The queue of commands -/

/-- A step executes the command at the front of the queue on the state with the queue's rest, and an empty queue
idles (the model's form of "each event is taken whole", log entries 1 and 20). -/
def Obligations.StepTakesFrontCommand : Prop :=
  (∀ (c : Instr) (rest : List Instr) (s : State), s.pending = c :: rest →
    step s = exec c { s with pending := rest }) ∧
  ∀ s : State, s.pending = [] → step s = .next s

/-- Every command leaves the part in a next state, and none touches the commands still waiting (log entry 13). -/
def Obligations.EveryCommandReachesNextState : Prop :=
  ∀ (c : Instr) (s : State), ∃ t, exec c s = .next t ∧ t.pending = s.pending

/-! ## Resets -/

/-- R41: a hardware reset sets every ring, whatever its state, to the values of R41's table, and a ring with that
descriptor is refused at ENABLE with SIZE. -/
def Obligations.HardwareResetSetsRings : Prop :=
  ∀ (a1 a0 : Bool) (s : State), ∃ t, exec (.hardwareReset a1 a0) s = .next t ∧ ∀ r : RingNo,
    (t.ring r).state = .off
    ∧ (t.ring r).structural =
      { apertureBase := 0, apertureExponent := 0, memoryBase := 0, capacityExponent := 0, startOffset := 0 }
    ∧ (t.ring r).active =
      { producerMask := 0, consumerMask := 0, observerMask := 0
        overrun := .block, underrun := .wait
        highMark := 0, lowMark := 0, holdTimeout := 0, holdQuota := 0
        eventLine := 0, kindMask := 0xFF }
    ∧ (t.ring r).shadow = (t.ring r).active
    ∧ (t.ring r).pending = false
    ∧ (t.ring r).D = 0 ∧ (t.ring r).F = 0 ∧ (t.ring r).W = 0 ∧ (t.ring r).K = 0
    ∧ (t.ring r).fill = [] ∧ (t.ring r).drain = [] ∧ (t.ring r).poison = []
    ∧ (∀ h ∈ t.pool.entries, h.ring ≠ r)
    ∧ (t.ring r).side = .low
    ∧ (t.ring r).discardCount = 0 ∧ (t.ring r).overtakeCount = 0 ∧ (t.ring r).lateCount = 0
    ∧ (t.ring r).outcome = .accepted ∧ (t.ring r).state.busy = false
    ∧ t.enableRefusal r = some .size

/-- R173 with the values of R107, R134, R149, R162, R163, R167, R169 and R170: what the rest of the part is after a
hardware reset. -/
def Obligations.HardwareResetSetsPart : Prop :=
  ∀ (a1 a0 : Bool) (s : State), ∃ t, exec (.hardwareReset a1 a0) s = .next t
    ∧ t.inReset = false ∧ t.part = .running
    ∧ (t.mgmt.i2cAddress.toNat = 0x58 + 2 * a1.toNat + a0.toNat ∧ t.mgmt.pointer = 0)
    ∧ t.mgmt.flags = { addr := false, locked := false, partialEnd := false, popMismatch := false }
    ∧ (t.mgmt.memoryTimeout = 1000 ∧ t.mgmt.lineEnables = 0 ∧ t.mgmt.passFaultEnable = true
        ∧ t.mgmt.passFaultLine = 0)
    ∧ (t.time.divider = 99 ∧ t.time.intervalDivider = 99 ∧ t.time.cycles = 0 ∧ t.time.count = 0)
    ∧ (t.pool.entries = [] ∧ t.pool.released = [])
    ∧ ((∀ u, t.txn u = none) ∧ (∀ m : MasterNo, t.sys.undelivered[m.val] = 0) ∧ t.sys.readyOrder = []
        ∧ t.awaiting = [])
    ∧ (t.mem.queue = [] ∧ t.mem.outstanding = [] ∧ t.freeEntries = 16)
    ∧ (t.events.records = [] ∧ t.events.nextSequence = 0 ∧ t.events.lost = false
        ∧ t.events.markerPending = false ∧ t.events.lines = 0)
    ∧ ∀ r : RingNo, (t.ring r).snapshot =
      { D := 0, F := 0, W := 0, K := 0, level := 0, side := .low
        fillCount := 0, drainCount := 0, heldCount := 0, pending := false, state := .off }

/-- R173: HELD_IN_RESET deasserts the four event lines, and the register pointer, the error flags and every register
keep their values (the partial bytes take no effect); while RST_N is low no command but a hardware reset has an
effect, and no address is acknowledged (what the links carry meanwhile is log entry 17, the other commands log
entry 19). -/
def Obligations.HeldInResetDoesNothing : Prop :=
  (∀ (cut : List Byte) (s : State), ∃ t, exec (.heldInReset cut) s = .next t
    ∧ t = { s with inReset := true, mgmt := t.mgmt, sys := t.sys, mem := t.mem, events := t.events }
    ∧ t.mgmt = { s.mgmt with acknowledged := false, returned := [] }
    ∧ t.sys = { s.sys with link := none } ∧ t.mem = { s.mem with link := none }
    ∧ t.events = { s.events with lines := 0 }) ∧
  ∀ (c : Instr) (s : State), s.inReset = true → (∀ a1 a0, c ≠ .hardwareReset a1 a0) →
    (∀ cut, c ≠ .heldInReset cut) →
    exec c s = .next s ∨ exec c s = .next { s with mgmt := { s.mgmt with acknowledged := false } }

/-! ## Positions, extents and the fold -/

/-- R8, R9: the signed distance is the one value in [-A/2, A/2) that is congruent to y - x modulo A; half an aperture
away is behind, seen from either end; and two extents intersect exactly when some position lies in both. -/
def Obligations.SignedDistanceAndIntersection : Prop :=
  (∀ k x y : Nat, 0 < k → x < 2 ^ k → y < 2 ^ k →
    (-(2 ^ k : Int) ≤ 2 * signedDistance (2 ^ k) x y ∧ 2 * signedDistance (2 ^ k) x y < 2 ^ k)
    ∧ (∃ n : Int, signedDistance (2 ^ k) x y = (y : Int) - x + n * 2 ^ k)
    ∧ (∀ d n : Int, d = (y : Int) - x + n * 2 ^ k → -(2 ^ k : Int) ≤ 2 * d → 2 * d < 2 ^ k →
        d = signedDistance (2 ^ k) x y)
    ∧ (2 * distance (2 ^ k) x y = 2 ^ k → IsBehind (2 ^ k) x y ∧ IsBehind (2 ^ k) y x)) ∧
  ∀ (A : Nat) (e f : Extent), e.start < A → f.start < A →
    (e.Intersects A f ↔ ∃ p, p < A ∧ e.Has A p ∧ f.Has A p)

/-- R11, R12, R16: the parts of a ring request, laid end to end, hold for each byte of the request the fold of that
byte's stream position, in stream order; they are one or two; and an advance of F from f0 to f1 is a lap boundary
exactly when some position of (f0, f1] is a multiple of C. -/
def Obligations.FoldAndLapBoundary : Prop :=
  ∀ c : Structural, c.capacity ∣ c.apertureSize →
    (∀ start n : Nat, n ≤ c.capacity →
      (foldParts c start n).flatMap (fun p => List.range' p.memAddress p.length)
        = (List.range n).map (fun i => foldAddress c (positionAfter c.apertureSize start i))
      ∧ ((foldParts c start n).map Part.length).sum = n
      ∧ ((foldParts c start n).length = 1 ∨ (foldParts c start n).length = 2)) ∧
    ∀ f0 f1 : Nat, IsLapBoundary c f0 f1 ↔
      ∃ k, 0 < k ∧ k ≤ distance c.apertureSize f0 f1 ∧ positionAfter c.apertureSize f0 k % c.capacity = 0

/-! ## Words and register addresses -/

/-- 10.7: the two header words and the data words of a well-formed request spell that request again, with every
field at every value. -/
def Obligations.RequestWordsSpellTheRequest : Prop :=
  ∀ q : Request, q.WellFormed = true →
    requestOfWords (requestWord0 q) (requestWord1 q) (dataWords q.data) = q

/-- 10.7, R163: the address of each register names that register, whatever its two low bits, and those bits are
ignored; and the unmapped addresses are 030h to 0FFh, the offsets 34h to 3Fh of every ring control block, the offsets
3Ch to 3Fh of every ring status block, and 900h to FFFFh. -/
def Obligations.RegisterAddressNamesRegister : Prop :=
  (∀ (reg : Reg) (k : Nat), reg ≠ .unmapped → k < 4 →
    Reg.ofAddress (reg.address + BitVec.ofNat 16 k) = reg
      ∧ alignPointer (reg.address + BitVec.ofNat 16 k) = reg.address) ∧
  ∀ a : BitVec 16, Reg.ofAddress a = .unmapped ↔
    (0x030 ≤ a.toNat ∧ a.toNat < 0x100)
      ∨ (0x100 ≤ a.toNat ∧ a.toNat < 0x500 ∧ 0x34 ≤ (a.toNat - 0x100) % 0x40)
      ∨ (0x500 ≤ a.toNat ∧ a.toNat < 0x900 ∧ 0x3C ≤ (a.toNat - 0x500) % 0x40)
      ∨ 0x900 ≤ a.toNat

/-- 10.7, R166: a structural or live register reads back the value written to it, with the bits that no field
holds read as 0 and overrun code 3 stored as BLOCK, and every other structural or live register reads as before. -/
def Obligations.RingRegistersReadBack : Prop :=
  ∀ (c : Structural) (l : Live) (v : Word),
    ((c.write .apertureBaseLow v).read .apertureBaseLow = v
    ∧ (c.write .highBytesAndExponents v).read .highBytesAndExponents = v &&& 0x1F1FFFFF
    ∧ (c.write .memoryBaseLow v).read .memoryBaseLow = v
    ∧ (c.write .startOffset v).read .startOffset = v
    ∧ ∀ g h, g ≠ h → (c.write g v).read h = c.read h) ∧
    (l.write .producerConsumerMasks v).read .producerConsumerMasks = v
    ∧ (l.write .observerPoliciesLineQuota v).read .observerPoliciesLineQuota
        = (if v.extractLsb' 16 2 = 3 then v &&& 0x3F34FFFF else v &&& 0x3F37FFFF)
    ∧ (l.write .highMark v).read .highMark = v &&& 0x1FFFFFF
    ∧ (l.write .lowMark v).read .lowMark = v &&& 0x1FFFFFF
    ∧ (l.write .timeoutKindMask v).read .timeoutKindMask = v &&& 0xFFFFFF
    ∧ ∀ g h, g ≠ h → (l.write g v).read h = l.read h

/-! ## The system port -/

/-- R136: the request at the front of a master's link is accepted when the five conditions hold (its master's count
rises and an entry that was free holds it), and otherwise it waits and nothing in the part changes. The fourth
condition counts the free entries of the issue queue as 16 less the occupied and the reserved ones. -/
def Obligations.AcceptanceNeedsFiveConditions : Prop :=
  ∀ (q : Request) (s : State), s.inReset = false →
    if s.part = .running ∧ (∃ u, s.txn u = none) ∧ s.sys.undelivered[q.master.val] < 16
        ∧ s.mem.queue.length + 2 * s.awaiting.length + 2 ≤ 16 ∧ s.pool.released = [] then
      ∃ t, exec (.requestAcceptance q) s = .next t
        ∧ t.sys.undelivered[q.master.val] = s.sys.undelivered[q.master.val] + 1
        ∧ ∃ u x, s.txn u = none ∧ t.txn u = some x ∧ x.master = q.master ∧ x.tag = q.tag
    else exec (.requestAcceptance q) s = .next s

/-- R137, steps 1 and 2: an accepted request takes the lowest-numbered free entry and is recorded in it, its master's
undelivered count rises by one, and no other entry, no other count, no ring, no hold entry and no event record
changes. -/
def Obligations.AcceptedRequestTakesLowestEntry : Prop :=
  ∀ (q : Request) (s : State) (u : TxnNo), s.inReset = false → s.accepts q.master = true →
    s.txn u = none → (∀ w : TxnNo, w < u → s.txn w ≠ none) →
    ∃ t, exec (.requestAcceptance q) s = .next t
      ∧ (∃ x, t.txn u = some x ∧ x.master = q.master ∧ x.tag = q.tag ∧ x.direction = q.direction
          ∧ x.address = q.address ∧ x.length = q.length.toNat ∧ x.cleared = false)
      ∧ (∀ w : TxnNo, w ≠ u → t.txn w = s.txn w)
      ∧ (∀ m : MasterNo, t.sys.undelivered[m.val]
          = if m = q.master then s.sys.undelivered[m.val] + 1 else s.sys.undelivered[m.val])
      ∧ t = { s with awaiting := t.awaiting, sys := t.sys, mem := t.mem, freeCount := t.freeCount }
      ∧ t.sys.link = s.sys.link ∧ t.mem.outstanding = s.mem.outstanding ∧ t.mem.link = s.mem.link

/-- R139: an accepted request whose length is 0 or above 256, or whose tag another undelivered request of its master
bears, is answered PROTOCOL in the acceptance event: its entry is READY at the tail of the ready order with the class,
ring, stream range and parts absent and no data, nothing is reserved or queued, and nothing else changes. -/
def Obligations.ProtocolChecksAnswerProtocol : Prop :=
  ∀ (q : Request) (s : State) (u : TxnNo), s.inReset = false → s.accepts q.master = true →
    s.txn u = none → (∀ w : TxnNo, w < u → s.txn w ≠ none) →
    (q.length.toNat = 0 ∨ 256 < q.length.toNat
      ∨ ∃ w x, s.txn w = some x ∧ x.master = q.master ∧ x.tag = q.tag) →
    ∃ t, exec (.requestAcceptance q) s = .next t
      ∧ t = { s with sys := t.sys, freeCount := t.freeCount }
      ∧ t.sys.readyOrder = s.sys.readyOrder ++ [u] ∧ t.sys.link = s.sys.link
      ∧ (∀ m : MasterNo, t.sys.undelivered[m.val]
          = if m = q.master then s.sys.undelivered[m.val] + 1 else s.sys.undelivered[m.val])
      ∧ (∀ w : TxnNo, w ≠ u → t.txn w = s.txn w)
      ∧ t.txn u = some
          { master := q.master, tag := q.tag, direction := q.direction, address := q.address
            length := q.length.toNat, cls := none, ring := none, range := none, cleared := false
            parts := [], outstanding := 0, data := [], stage := .ready, status := some .protocol }

/-- R3 to R6, R10, R12, R142: what the acceptance event does with a request that passes the protocol checks, class by
class. `x` is the entry as acceptance fills it; a ring request waits for its admission with its two entries reserved,
a guarded or a straddling one is answered at once, a pass-through one joins the tail of the issue queue. The data of
a write are the link's `length` bytes. -/
def Obligations.ClassificationDecidesAcceptedRequest : Prop :=
  ∀ (q : Request) (s : State) (u : TxnNo), s.inReset = false → s.accepts q.master = true →
    q.WellFormed = true → s.txn u = none → (∀ w : TxnNo, w < u → s.txn w ≠ none) →
    0 < q.length.toNat → q.length.toNat ≤ 256 →
    (∀ w x, s.txn w = some x → x.master = q.master → x.tag ≠ q.tag) →
    ∃ t x, exec (.requestAcceptance q) s = .next t ∧ t.txn u = some x ∧ t.freeCount = s.freeCount ∧
      match s.classify q.address.toNat q.length.toNat with
      | .straddling => x.stage = .ready ∧ x.status = some .protocol ∧ x.cls = some .reject ∧ x.ring = none
          ∧ x.range = none ∧ x.parts = [] ∧ x.data = [] ∧ t.sys.readyOrder = s.sys.readyOrder ++ [u]
          ∧ t.awaiting = s.awaiting ∧ t.mem = s.mem
      | .guarded => x.stage = .ready ∧ x.status = some .refused ∧ x.cls = some .reject ∧ x.ring = none
          ∧ x.range = none ∧ x.parts = [] ∧ x.data = [] ∧ t.sys.readyOrder = s.sys.readyOrder ++ [u]
          ∧ t.awaiting = s.awaiting ∧ t.mem = s.mem
      | .ringRequest r =>
          let start := q.address.toNat - (s.ring r).structural.apertureBase.toNat
          x.stage = .accepted ∧ x.status = none ∧ x.ring = some r ∧ x.data = q.data
          ∧ x.cls = (if q.direction = .write then some .ringWrite else none)
          ∧ x.range = some ⟨start, positionAfter (s.ring r).A start q.length.toNat⟩
          ∧ x.parts = foldParts (s.ring r).structural start q.length.toNat
          ∧ t.awaiting = s.awaiting ++ [u] ∧ t.sys.readyOrder = s.sys.readyOrder ∧ t.mem = s.mem
      | .passThrough => x.stage = .queued ∧ x.status = none ∧ x.cls = some .pass ∧ x.ring = none
          ∧ x.range = none ∧ x.outstanding = 1 ∧ x.data = []
          ∧ x.parts = [{ memAddress := q.address.toNat, length := q.length.toNat, range := none
                         result := .pending, data := [] }]
          ∧ t.mem.queue = s.mem.queue ++
              [{ transaction := u, part := .first, cls := .passThrough, direction := q.direction
                 address := q.address.toNat, length := q.length.toNat, data := q.data }]
          ∧ t.awaiting = s.awaiting ∧ t.sys.readyOrder = s.sys.readyOrder

/-- R2, R7: the class of a request of at least one byte, told by its bytes. A pass-through request has no byte in the
aperture or the memory span of a ring not OFF; a guarded one has a byte in such a span and none in such an aperture;
a ring request has every byte in the aperture of its ring, which is not OFF; a straddling one runs past the address
space or has bytes on both sides of an aperture's edge, and no other class runs past the address space. -/
def Obligations.ClassesAreToldByTheBytes : Prop :=
  ∀ (s : State) (address length : Nat), 0 < length →
    let byteOf := fun b => address ≤ b ∧ b < address + length
    let inAperture := fun (r : RingNo) b =>
      (s.ring r).apertureStart ≤ b ∧ b < (s.ring r).apertureStart + (s.ring r).A
    let inSpan := fun (r : RingNo) b => (s.ring r).spanStart ≤ b ∧ b < (s.ring r).spanStart + (s.ring r).C
    match s.classify address length with
    | .straddling => 2 ^ 40 < address + length ∨ ∃ r, (s.ring r).state ≠ .off
        ∧ (∃ b, byteOf b ∧ inAperture r b) ∧ ∃ b, byteOf b ∧ ¬ inAperture r b
    | .ringRequest r => address + length ≤ 2 ^ 40 ∧ (s.ring r).state ≠ .off ∧ ∀ b, byteOf b → inAperture r b
    | .guarded => address + length ≤ 2 ^ 40 ∧ (∃ r, (s.ring r).state ≠ .off ∧ ∃ b, byteOf b ∧ inSpan r b)
        ∧ ∀ r, (s.ring r).state ≠ .off → ∀ b, byteOf b → ¬ inAperture r b
    | .passThrough => address + length ≤ 2 ^ 40
        ∧ ∀ r, (s.ring r).state ≠ .off → ∀ b, byteOf b → ¬ inAperture r b ∧ ¬ inSpan r b

/-- R146, R147: a delivery gives the link the response of the oldest READY entry, frees the entry and lowers its
master's count. In RUNNING nothing else changes; in RESETTING the completion test of the part reset follows (R172). -/
def Obligations.DeliveryTakesOldestReady : Prop :=
  ∀ (s : State) (u : TxnNo) (rest : List TxnNo) (x : Txn) (a : Status), s.inReset = false →
    s.sys.readyOrder = u :: rest → s.txn u = some x → x.status = some a →
    ∃ d, d = { s with sys := d.sys } ∧ d.txn u = none ∧ (∀ w, w ≠ u → d.txn w = s.txn w)
      ∧ d.sys.readyOrder = rest
      ∧ d.sys.link = some { master := x.master, tag := x.tag, status := a, data := x.data }
      ∧ (∀ m : MasterNo, d.sys.undelivered[m.val]
          = if m = x.master then s.sys.undelivered[m.val] - 1 else s.sys.undelivered[m.val])
      ∧ exec .responseDelivery s = .next d.testResetCompletion
      ∧ (s.part = .running → exec .responseDelivery s = .next d)

/-! ## Answers and holds -/

/-- R141, R146: the event that forms a request's status puts its entry into READY, with the response's bytes, at the
tail of the ready order; nothing else changes. R94: a hold is granted while the ring's held count is below its active
quota and a slot is free: a WAITING entry takes the lowest-numbered free slot at the tail of the grant order, its
deadline is the tick count plus the active hold timeout, a write's data are copied into the slot's store, and the
request goes to HELD; otherwise the request is answered BUSY and the pool is unchanged. -/
def Obligations.HoldIsGrantedWithinQuota : Prop :=
  (∀ (s : State) (u : TxnNo) (x : Txn) (a : Status) (d : List Byte), s.txn u = some x →
    s.answer u a d = { s with sys := { s.sys with
      table := s.sys.table.set u.val (some { x with stage := .ready, status := some a, data := d })
      readyOrder := s.sys.readyOrder ++ [u] } }) ∧
  ∀ (s : State) (u : TxnNo) (x : Txn) (r : RingNo) (w : HoldReason),
    (∀ i : SlotNo, (∀ h ∈ s.pool.entries, h.slot ≠ i) →
        (∀ j : SlotNo, j < i → ∃ h ∈ s.pool.entries, h.slot = j) →
        s.pool.heldCount r < (s.ring r).active.holdQuota.toNat →
      s.askHold u x r w = { s with
        pool := { s.pool with
          entries := s.pool.entries ++
            [{ slot := i, transaction := u, ring := r, reason := w
               deadline := s.time.count + (s.ring r).active.holdTimeout.setWidth 32, state := .waiting }]
          stores := s.pool.stores.set i.val (x.data ++ s.pool.stores[i.val].drop x.data.length) }
        sys := { s.sys with table := s.sys.table.set u.val (some { x with stage := .held, data := [] }) } }) ∧
    ((s.ring r).active.holdQuota.toNat ≤ s.pool.heldCount r
        ∨ (∀ i : SlotNo, ∃ h ∈ s.pool.entries, h.slot = i) →
      s.askHold u x r w = s.answer u .busy)

/-- R103: when a change of a ring's state answers its hold list, every entry of that ring leaves the pool and its slot
and its place in the released list are free, the entries of other rings stay as they are, and the requests become
READY with no data in the order of the hold list, each with the status that the change gives. -/
def Obligations.HoldListIsAnsweredOldestFirst : Prop :=
  ∀ (s : State) (r : RingNo) (f : HoldEntry → Status), s.pool.WellFormed →
    (s.pool.entries.map HoldEntry.transaction).Nodup →
    (∀ h ∈ s.pool.entries, s.txn h.transaction ≠ none) →
    let t := s.answerHoldList r f
    let gone := s.pool.entries.filter fun h => h.ring = r
    t = { s with sys := t.sys, pool := t.pool }
    ∧ t.pool.entries = s.pool.entries.filter (fun h => h.ring ≠ r)
    ∧ t.pool.released = s.pool.released.filter (fun i => ¬ ∃ h ∈ gone, h.slot = i)
    ∧ t.pool.stores = s.pool.stores
    ∧ t.sys.readyOrder = s.sys.readyOrder ++ gone.map HoldEntry.transaction
    ∧ (∀ h ∈ gone, ∀ x, s.txn h.transaction = some x →
        t.txn h.transaction = some { x with stage := .ready, status := some (f h), data := [] })
    ∧ (∀ u, (∀ h ∈ gone, h.transaction ≠ u) → t.txn u = s.txn u)
    ∧ t.sys.undelivered = s.sys.undelivered

/-! ## Admissions -/

/-- R3, R45 to R53: WRITE_ADMISSION takes the oldest admission, and a write, fresh or re-admitted, is judged by the
checks of R45 in their order: each outcome is given whole. (Check 4 also answers a write whose end alone lies behind
F; that is the model's reading of R48, log entry 6.) -/
def Obligations.WriteChecksDecideInOrder : Prop :=
  (∀ (s : State) (u : TxnNo) (rest : List TxnNo) (x : Txn) (r : RingNo) (e : Extent), s.inReset = false →
    s.awaiting = u :: rest → s.txn u = some x → x.direction = .write → x.ring = some r → x.range = some e →
    exec .writeAdmission s = .next (State.takeWrite { s with awaiting := rest } u x r e)) ∧
  ∀ (s : State) (u : TxnNo) (x : Txn) (r : RingNo) (e : Extent),
    let ring := s.ring r
    let beyondRoom := IsBeyond ring.A (positionAfter ring.A ring.D ring.C) e.stop
    s.takeWrite u x r e =
      if x.cleared then s.answer u .stopped
      else if ring.state = .halted then s.answer u .halted
      else if ring.state ≠ .active then s.answer u .stopped
      else if ring.active.producerMask.getLsbD x.master.val = false then
        (s.setTxn u (some { x with cls := some .reject })).answer u .refused
      else if (ring.C : Int) < signedDistance ring.A ring.F e.stop then s.answer u .range
      else if IsBehind ring.A ring.F e.start ∨ ∃ f ∈ ring.fill, e.Intersects ring.A f.extent then
        s.answer u .overlap
      else if IsBehind ring.A ring.F e.stop then s.answer u .overlap
      else if beyondRoom ∧ ring.active.overrun = .block then s.askHold u x r .room
      else if beyondRoom ∧ ring.active.overrun = .discard then
        (s.setRing r { ring with discardCount := countUp ring.discardCount }).answer u .discarded
      else if 12 ≤ ring.fill.length then s.answer u .busy
      else s.admitWrite u x r e

/-- R54, R55, R44: a write that passes every check and needs no overtake joins the fill scoreboard IN_FLIGHT at its
sorted place, moves W and K as R54 says with the poison behind a new K retired, goes to QUEUED, and its parts join the
tail of the issue queue, carrying the write's data in stream order; F, D and every other ring are as before. -/
def Obligations.AdmittedWriteIsPlacedAndQueued : Prop :=
  ∀ (s : State) (u : TxnNo) (rest : List TxnNo) (x : Txn) (r : RingNo) (e : Extent), s.inReset = false →
    s.awaiting = u :: rest → s.txn u = some x → x.direction = .write → x.ring = some r → x.range = some e →
    x.cleared = false → judgeWrite (s.ring r) x.master e = .admitted → ¬ (s.ring r).BeyondRoom e.stop →
    let ring := s.ring r
    let reach := if IsBeyond ring.A ring.W e.stop then e.stop else ring.W
    let floor := positionBefore ring.A reach ring.C
    ∃ t, exec .writeAdmission s = .next t
      ∧ t = { s with awaiting := rest, rings := t.rings, sys := t.sys, mem := t.mem }
      ∧ (∀ q, q ≠ r → t.ring q = s.ring q)
      ∧ t.ring r = { ring with
          fill := insertEntry ring.A ring.F { extent := e, state := .inFlight, transactions := [u] } ring.fill
          W := reach
          K := if IsBeyond ring.A ring.K floor then floor else ring.K
          poison := if IsBeyond ring.A ring.K floor then retirePoison ring.A floor ring.poison else ring.poison }
      ∧ t.sys = { s.sys with
          table := s.sys.table.set u.val
            (some { x with outstanding := x.parts.length, stage := .queued, data := [] }) }
      ∧ t.mem = { s.mem with queue := s.mem.queue ++ partOperations u x .ring }
      ∧ (x.parts.length ≤ 2 → (x.parts.map Part.length).sum = x.data.length →
          (partOperations u x .ring).length = x.parts.length
          ∧ (partOperations u x .ring).flatMap Operation.data = x.data)

/-- R14, R44, R122: write admission keeps the frontiers in order and W within C of D, for a ring with A at least 4C, when
no overtake is due; and every step of the part keeps, for every ring not OFF, the frontiers in order with each distance
within C, the fill entries within [F, W), the drain entries within [D, F), the poison entries within [K, F), and the
side in agreement with the level. (`State.Sound` is what the step lemma needs of every state: the streams so, and the
transaction entries each in the one place that its stage names, held entries in ACTIVE rings, clears and a part reset
in progress as R37 and R171 leave them.) -/
def Obligations.WriteAdmissionKeepsFrontiersOrdered : Prop :=
  (∀ (x : Ring) (u : TxnNo) (master : MasterNo) (e : Extent), x.FrontiersOrdered → 4 * x.C ≤ x.A →
    x.D < x.A → x.F < x.A → x.W < x.A → x.K < x.A → e.stop < x.A →
    judgeWrite x master e = .admitted → ¬ x.BeyondRoom e.stop →
    (x.placeWrite u e).FrontiersOrdered) ∧
  ∀ s t : State, s.Sound → step s = .next t → t.Sound

/-- R56 to R59: a write admitted beyond the room end under OVERTAKE moves D to D1 = e - C and over the LANDED entries
that then begin at it, cuts the drain scoreboard back to D1, counts one overtake, answers STALE every held read of the
ring whose start lies behind the new K, and raises OVERTAKEN with position D1 and the bytes given up; F is as before. -/
def Obligations.OvertakeMovesDrainFrontier : Prop :=
  ∀ (s : State) (u : TxnNo) (rest : List TxnNo) (x : Txn) (r : RingNo) (e : Extent), s.inReset = false →
    s.awaiting = u :: rest → s.txn u = some x → x.direction = .write → x.ring = some r → x.range = some e →
    x.cleared = false → judgeWrite (s.ring r) x.master e = .admitted → (s.ring r).BeyondRoom e.stop →
    let ring := s.ring r
    let placed := ring.placeWrite u e
    let d1 := positionBefore ring.A e.stop ring.C
    let after := absorbDrain d1 (cutDrain ring.A d1 ring.drain)
    let level := distance ring.A after.2 ring.F
    let stale := fun h : HoldEntry => h.ring = r ∧ h.reason = .underrun ∧
      ∃ y range, s.txn h.transaction = some y ∧ y.range = some range ∧ IsBehind ring.A placed.K range.start
    ∃ t, exec .writeAdmission s = .next t
      ∧ t = { s with awaiting := rest, rings := t.rings, sys := t.sys, mem := t.mem, pool := t.pool,
                     events := t.events }
      ∧ (∀ q, q ≠ r → t.ring q = s.ring q)
      ∧ t.ring r = { placed with
          D := after.2, drain := after.1, overtakeCount := countUp ring.overtakeCount
          side := match ring.side with
            | .low => if ring.active.highMark.toNat ≤ level then .high else .low
            | .high => if level ≤ ring.active.lowMark.toNat then .low else .high }
      ∧ placed.F = ring.F
      ∧ (∀ i, (∃ g ∈ t.pool.entries, g.slot = i) ↔ ∃ h ∈ s.pool.entries, h.slot = i ∧ ¬ stale h)
      ∧ (∀ h ∈ s.pool.entries, stale h → h.transaction ≠ u → ∀ y, s.txn h.transaction = some y →
          t.txn h.transaction = some { y with stage := .ready, status := some .stale, data := [] })
      ∧ t.txn u = some { x with outstanding := x.parts.length, stage := .queued, data := [] }
      ∧ t.mem = { s.mem with queue := s.mem.queue ++ partOperations u x .ring }
      ∧ (ring.active.includesKind .overtaken = true → s.events.records.length < 32 →
          t.events.records[s.events.records.length]? = some
            { sequence := s.events.nextSequence, kind := .overtaken, ring := some r
              line := ring.active.eventLine, afterLoss := s.events.markerPending, position := some d1
              count := .bytes (distance ring.A ring.D d1) })

/-- R69, R73 to R82: READ_ADMISSION takes the oldest admission, and a read, fresh or re-admitted, has its class set
from the active masks and is then judged by the checks of R73 in their order: each outcome is given whole. (That a read
marked cleared has its class set before it is answered STOPPED is the model's reading, log entry 14; that the consume
part is empty whenever the end is at or behind D, wherever the start lies, is log entry 12.) -/
def Obligations.ReadChecksDecideInOrder : Prop :=
  (∀ (s : State) (u : TxnNo) (rest : List TxnNo) (x : Txn) (r : RingNo) (e : Extent), s.inReset = false →
    s.awaiting = u :: rest → s.txn u = some x → x.direction = .read → x.ring = some r → x.range = some e →
    exec .readAdmission s = .next (State.takeRead { s with awaiting := rest } u x r e)) ∧
  ∀ (s : State) (u : TxnNo) (x : Txn) (r : RingNo) (e : Extent),
    let ring := s.ring r
    let cls : RequestClass :=
      if ring.state = .off then .reject
      else if ring.active.consumerMask.getLsbD x.master.val then .consume
      else if ring.active.observerMask.getLsbD x.master.val then .peek
      else .reject
    let y := { x with cls := some cls }
    let s' := s.setTxn u (some y)
    let part :=
      if cls ≠ .consume then none
      else if ¬ IsBeyond ring.A ring.D e.stop then none
      else if IsAtOrAhead ring.A ring.D e.start then some e
      else some ⟨ring.D, e.stop⟩
    s.takeRead u x r e =
      if x.cleared then s'.answer u .stopped
      else if ring.state = .halted then s'.answer u .halted
      else if ring.state = .clearing ∨ ring.state = .off then s'.answer u .stopped
      else if cls = .reject then s'.answer u .refused
      else if IsBehind ring.A ring.K e.start then s'.answer u .stale
      else if (ring.C : Int) < signedDistance ring.A ring.D e.stop then s'.answer u .range
      else if IsBeyond ring.A ring.F e.stop then
        if cls = .consume ∧ ring.active.underrun = .wait ∧ ring.state = .active then s'.askHold u y r .underrun
        else s'.answer u .empty
      else if ∃ c, part = some c ∧ ∃ f ∈ ring.drain, c.Intersects ring.A f.extent then s'.answer u .overlap
      else if part ≠ none ∧ 12 ≤ ring.drain.length then s'.answer u .busy
      else if ∃ p ∈ ring.poison, e.Intersects ring.A p then s'.poisonedRead u r part
      else (s'.setRing r (ring.placeRead u part .inFlight)).enqueueParts u y .ring

/-- R82: a read that passes every check goes to QUEUED and its parts join the tail of the issue queue; a consuming
read's consume part joins the drain scoreboard IN_FLIGHT at its sorted place, a peek and a re-read change no ring; no
frontier moves. -/
def Obligations.AdmittedReadIsPlacedAndQueued : Prop :=
  ∀ (s : State) (u : TxnNo) (rest : List TxnNo) (x : Txn) (r : RingNo) (e : Extent), s.inReset = false →
    s.awaiting = u :: rest → s.txn u = some x → x.direction = .read → x.ring = some r → x.range = some e →
    x.cleared = false →
    let ring := s.ring r
    let cls := readClass ring x.master
    judgeRead ring cls e = .admitted →
    exec .readAdmission s = .next { s with
      awaiting := rest
      rings := s.rings.set r.val (match consumePart ring cls e with
        | some c => { ring with
            drain := insertEntry ring.A ring.D { extent := c, state := .inFlight, transactions := [u] } ring.drain }
        | none => ring)
      sys := { s.sys with
        table := s.sys.table.set u.val
          (some { x with cls := some cls, outstanding := x.parts.length, stage := .queued, data := [] }) }
      mem := { s.mem with queue := s.mem.queue ++ partOperations u { x with cls := some cls } .ring } }

/-- R81, R85, R86, R113: a read that meets poison is answered POISONED with no data and no memory operation. A peek
and a re-read change no ring; a consuming read's consume part enters the drain scoreboard LANDED and merges, D is
absorbed over what then begins at it, and F, K, W and the poison list are as before. When D moves, one level evaluation
follows, and then in ACTIVE one release scan for ROOM entries: the next state is given whole. -/
def Obligations.PoisonedReadConsumes : Prop :=
  ∀ (s : State) (u : TxnNo) (rest : List TxnNo) (x : Txn) (r : RingNo) (e : Extent), s.inReset = false →
    s.awaiting = u :: rest → s.txn u = some x → x.direction = .read → x.ring = some r → x.range = some e →
    x.cleared = false →
    let ring := s.ring r
    let cls := readClass ring x.master
    judgeRead ring cls e = .poisoned →
    ∃ t, exec .readAdmission s = .next t
      ∧ t = { s with awaiting := rest, rings := t.rings, sys := t.sys, pool := t.pool, events := t.events }
      ∧ t.txn u = some { x with cls := some cls, stage := .ready, status := some .poisoned, data := [] }
      ∧ t.sys.readyOrder = s.sys.readyOrder ++ [u]
      ∧ (∀ q, q ≠ r → t.ring q = s.ring q)
      ∧ match consumePart ring cls e with
        | none => t.rings = s.rings ∧ t.pool = s.pool ∧ t.events = s.events
        | some c =>
          let landed := insertEntry ring.A ring.D
            { extent := c, state := .landed, transactions := [u] } ring.drain
          let after := absorbDrain ring.D (mergeLanded landed)
          let answered : State := { s with
            awaiting := rest
            sys := { s.sys with
              table := s.sys.table.set u.val
                (some { x with cls := some cls, stage := .ready, status := some .poisoned, data := [] })
              readyOrder := s.sys.readyOrder ++ [u] } }
          let absorbed := answered.setRing r { ring with D := after.2, drain := after.1 }
          let evaluated := absorbed.evaluateLevel r
          t.ring r = { ring with D := after.2, drain := after.1, side := (t.ring r).side }
          ∧ t = (if after.2 = ring.D then absorbed
              else if ring.state = .active then evaluated.releaseScan r fun w => decide (w = .room)
              else evaluated)
          ∧ (after.2 = ring.D → t.pool = s.pool ∧ t.events = s.events ∧ (t.ring r).side = ring.side)

/-- R98, R99: when the issue queue has two free entries, the head of the released list leaves the pool with its slot
and is admitted again as a fresh arrival, a write with the data of its slot's store; while there is no room, or
nothing is released, nothing happens. (That the entry and its slot leave the pool before the checks, so that a request
held again would ask the pool anew, is log entry 15; that nothing happens otherwise is log entry 9.) -/
def Obligations.ReAdmissionTakesReleasedHead : Prop :=
  (∀ (s : State) (i : SlotNo) (rest : List SlotNo) (h : HoldEntry) (x : Txn) (e : Extent), s.inReset = false →
    s.mem.queue.length + 2 * s.awaiting.length + 2 ≤ 16 → s.pool.released = i :: rest →
    s.pool.WellFormed → h ∈ s.pool.entries → h.slot = i →
    s.txn h.transaction = some x → x.range = some e →
    let s' := { s with pool := { s.pool with
      entries := s.pool.entries.filter fun g => g.slot ≠ i
      released := rest } }
    exec .reAdmission s = .next (match x.direction with
      | .write => s'.takeWrite h.transaction { x with data := s.pool.stores[i.val].take x.length } h.ring e
      | .read => s'.takeRead h.transaction x h.ring e)) ∧
  ∀ s : State, (s.pool.released = [] ∨ 16 < s.mem.queue.length + 2 * s.awaiting.length + 2) →
    exec .reAdmission s = .next s

/-! ## The memory port -/

/-- R154 to R156: the consideration of the head of the issue queue, step by step. A pass-through head over the memory
span of a ring not OFF is refused and leaves without an id, and the completion test of the part reset follows (the
READY entry keeps its class and part, log entry 26); a head waits while all 48 ids are in use or while it overlaps a
live operation and one of the two is a write; otherwise it is issued under the lowest-numbered free id with its
deadline, and its request goes from QUEUED to OUTSTANDING. -/
def Obligations.IssueConsidersTheHead : Prop :=
  (∀ s : State, s.mem.queue = [] → exec .issueHead s = .next s) ∧
  ∀ (s : State) (op : Operation) (rest : List Operation), s.inReset = false → s.mem.queue = op :: rest →
    let used := fun i : OpId => ∃ o ∈ s.mem.outstanding, o.id = i
    let guard := ∃ r, (s.ring r).state ≠ .off ∧
      RangesMeet op.address op.length (s.ring r).structural.memoryBase.toNat (s.ring r).C
    let blocked := ∃ o ∈ s.mem.outstanding, o.condition = .live ∧
      RangesMeet op.address op.length o.address o.length ∧ (op.direction = .write ∨ o.direction = .write)
    (op.cls = .passThrough → guard → exec .issueHead s = .next (State.testResetCompletion
      (State.answer { s with mem := { s.mem with queue := rest } } op.transaction .refused)))
    ∧ (¬ (op.cls = .passThrough ∧ guard) →
      ((∀ i, used i) → exec .issueHead s = .next s)
      ∧ (blocked → exec .issueHead s = .next s)
      ∧ ∀ i, ¬ used i → (∀ j, j < i → used j) → ¬ blocked → ∃ t, exec .issueHead s = .next t
        ∧ t = { s with mem := t.mem, sys := t.sys }
        ∧ t.mem = {
            queue := rest
            outstanding := s.mem.outstanding ++
              [{ id := i, transaction := op.transaction, part := op.part, direction := op.direction
                 address := op.address, length := op.length
                 deadline := s.time.count + s.mgmt.memoryTimeout.setWidth 32, condition := .live }]
            link := some { id := i, direction := op.direction, address := op.address, length := op.length
                           data := op.data } }
        ∧ (∀ x, s.txn op.transaction = some x → x.stage = .queued →
            t.txn op.transaction = some { x with stage := .outstanding })
        ∧ ((∀ x, s.txn op.transaction = some x → x.stage ≠ .queued) → t.sys = s.sys)
        ∧ (∀ u, u ≠ op.transaction → t.txn u = s.txn u)
        ∧ t.sys.readyOrder = s.sys.readyOrder ∧ t.sys.undelivered = s.sys.undelivered)

/-- R157, R159: a response is matched by its id alone. An id not in use: it is discarded and nothing changes. An
orphan's id: it is discarded, whatever it carries, the id is free, and nothing else changes. A live operation's id: the
operation stops being outstanding, so that its id is free, and no other operation's record changes. -/
def Obligations.MemoryResponseMatchesById : Prop :=
  ∀ (s : State) (id : BitVec 6) (status : MemoryStatus) (data : List Byte), s.inReset = false →
    (s.mem.outstanding.map Outstanding.id).Nodup →
    ((∀ o ∈ s.mem.outstanding, o.id.val ≠ id.toNat) → exec (.memoryResponse id status data) s = .next s)
    ∧ ∀ o ∈ s.mem.outstanding, o.id.val = id.toNat →
      ∃ t, exec (.memoryResponse id status data) s = .next t
        ∧ t.mem = { s.mem with outstanding := s.mem.outstanding.filter fun p => p.id ≠ o.id }
        ∧ (o.condition = .orphan → t = { s with mem := t.mem })

/-- R13, R60, R83, R84, R143: the end of a part by response while another part of its request is outstanding: the part
records its result, OK with a read's data or failed, the count of parts outstanding falls by one, and the request has
no response yet. -/
def Obligations.FirstEndOfTwoIsRecorded : Prop :=
  ∀ (s : State) (o : Outstanding) (x : Txn) (r : RingNo) (id : BitVec 6) (status : MemoryStatus)
    (data : List Byte), s.inReset = false → s.part = .running →
    (s.mem.outstanding.map Outstanding.id).Nodup → o ∈ s.mem.outstanding → o.id.val = id.toNat →
    o.condition = .live → s.txn o.transaction = some x → x.ring = some r → 2 ≤ x.outstanding →
    (s.ring r).state ≠ .clearing →
    (o.direction = .read → status = .ok → data.length = o.length) →
    exec (.memoryResponse id status data) s = .next { s with
      mem := { s.mem with outstanding := s.mem.outstanding.filter fun p => p.id ≠ o.id }
      sys := { s.sys with
        table := s.sys.table.set o.transaction.val (some { x with
          outstanding := x.outstanding - 1
          parts := x.parts.modify o.part.index fun p => { p with
            result := if status = .ok then .ok else .failed
            data := if status = .ok ∧ o.direction = .read then data else [] } }) } }

/-- R60 to R64, R24, R34, R109, R112, R116: the end of a ring write's last part by response, in every state of the ring
and of the part, the next state given whole. The write is answered DONE when every part ended OK and FAULT otherwise,
and its IN_FLIGHT entry turns LANDED (and merges) or VOID (`ended`). In ACTIVE and DRAINING the fill side then absorbs:
each poison entry added raises POISONED, a refused extent makes the ring HALTED with its hold list answered and HALTED
raised; if F moved over a lap boundary with a shadow set pending and the ring not HALTED, the set is applied under the
checks of R22; if F moved, the level is evaluated once, and in ACTIVE one release scan for UNDERRUN entries follows; an
apply raises APPLIED; and a DRAINING ring with no IN_FLIGHT entry becomes PAUSED. In every other state nothing moves.
Last come the clear-end test of the ring and the completion test of the part reset, which change nothing while the
part is RUNNING and the ring is not CLEARING. -/
def Obligations.WriteEndAnswersAndAbsorbs : Prop :=
  ∀ (s : State) (o : Outstanding) (x : Txn) (r : RingNo) (id : BitVec 6) (status : MemoryStatus)
    (data : List Byte), s.inReset = false →
    (s.mem.outstanding.map Outstanding.id).Nodup → o ∈ s.mem.outstanding → o.id.val = id.toNat →
    o.condition = .live → o.direction = .write → s.txn o.transaction = some x → x.direction = .write →
    x.ring = some r → x.outstanding = 1 →
    let ring := s.ring r
    let parts := x.parts.modify o.part.index fun p =>
      { p with result := if status = .ok then .ok else .failed, data := [] }
    let ok := parts.all fun p => p.result = .ok
    let fill := if ok then mergeLanded (turnEntry o.transaction .landed ring.fill)
      else turnEntry o.transaction .void ring.fill
    let ended : State := { s with
      rings := s.rings.set r.val { ring with fill := fill }
      mem := { s.mem with outstanding := s.mem.outstanding.filter fun p => p.id ≠ o.id }
      sys := { s.sys with
        table := s.sys.table.set o.transaction.val (some { x with
          parts := parts, outstanding := 0, stage := .ready
          status := some (if ok then .done else .fault), data := [] })
        readyOrder := s.sys.readyOrder ++ [o.transaction] } }
    let a := absorbFill ring.F ring.poison fill
    let taken := ended.setRing r { ring with fill := a.fill, F := a.F, poison := a.poison }
    let poisoned := a.added.foldl (fun (t : State) e =>
      t.raise r .poisoned (some e.start) (.bytes (distance ring.A e.start e.stop))) taken
    let settled := if a.refused then
        ((poisoned.setRing r { poisoned.ring r with state := .halted }).answerHoldList r
          fun _ => .halted).raise r .halted (some a.F) .absent
      else poisoned
    let moved := a.F ≠ ring.F
    let boundary := moved ∧ a.refused = false ∧ ring.pending = true ∧ IsLapBoundary ring.structural ring.F a.F
    let shadow := ring.shadow
    let refusal : Option ConfigReason :=
      if shadow.highMark.toNat = 0 ∨ ring.C < shadow.highMark.toNat
          ∨ ¬ shadow.lowMark.toNat < shadow.highMark.toNat then some .marks
      else if shadow.holdTimeout = 0 ∧ (shadow.underrun = .wait ∨ shadow.overrun = .block) then some .timeout
      else if 32 < shadow.holdQuota.toNat then some .quota
      else none
    let applied := if boundary then
        settled.setRing r (match refusal with
          | none => { settled.ring r with active := shadow, pending := false }
          | some reason => { settled.ring r with pending := true, outcome := .refusedConfig reason })
      else settled
    let evaluated := if moved then applied.evaluateLevel r else applied
    let scanned := if moved ∧ a.refused = false ∧ ring.state = .active then
        evaluated.releaseScan r fun w => decide (w = .underrun)
      else evaluated
    let reported := if boundary ∧ refusal = none then scanned.raise r .applied (some a.F) .absent else scanned
    let landed := if ring.state = .draining ∧ a.refused = false ∧ ∀ e ∈ a.fill, e.state ≠ .inFlight then
        (reported.setRing r { reported.ring r with state := .paused }).raise r .paused (some a.F) .absent
      else reported
    let done := if ring.state = .active ∨ ring.state = .draining then landed else ended
    (∃ c t, exec (.clearEnd r) done = .next c ∧ exec .partResetCompletion c = .next t
      ∧ exec (.memoryResponse id status data) s = .next t
      ∧ (s.part = .running → ring.state ≠ .clearing → t = done))
    ∧ done = { s with rings := done.rings, pool := done.pool, sys := done.sys, mem := done.mem, events := done.events }
    ∧ ((∀ h ∈ s.pool.entries, h.transaction ≠ o.transaction) →
        done.txn o.transaction = some { x with
          parts := parts, outstanding := 0, stage := .ready
          status := some (if ok then .done else .fault), data := [] })
    ∧ (∀ q, q ≠ r → done.ring q = s.ring q)
    ∧ (if ring.state = .active ∨ ring.state = .draining then
        done.ring r = { ring with
          fill := a.fill, F := a.F, poison := a.poison
          state := if a.refused then .halted
            else if ring.state = .draining ∧ (a.fill.any fun e => e.state = .inFlight) = false then .paused
            else ring.state
          active := if boundary ∧ refusal = none then shadow else ring.active
          pending := if boundary ∧ refusal = none then false else ring.pending
          outcome := match refusal with
            | some reason => if boundary then .refusedConfig reason else ring.outcome
            | none => ring.outcome
          side := (done.ring r).side }
      else done.ring r = { ring with fill := fill } ∧ done.pool = s.pool ∧ done.events = s.events)

/-- R62, R63, R112: absorption takes an unbroken run of LANDED and VOID entries that begins at F, moves F to the run's end,
and stops only where no entry begins at F, where an IN_FLIGHT entry does, or at a VOID entry that a poison list with
four entries, none of which ends at F, refuses. Each VOID extent of the run, in order, extends the list's last entry
when that ends where it begins and is otherwise appended and counted as added. R86: the drain side's absorption takes
the unbroken run of LANDED entries that begins at D. R43, R71: an entry is inserted before the first that begins
beyond it. R61, R85: merging replaces each longest row of touching LANDED entries by one that spans it (that one
merge joins every such row, in states that no run reaches too, is log entry 23). R55, R57: entries that end at or behind
a new frontier are removed, one that straddles it begins at it, the others stay. -/
def Obligations.AbsorptionTakesTheWholeRun : Prop :=
  (∀ (F : Nat) (poison : List Extent) (fill : List ScoreEntry),
    let a := absorbFill F poison fill
    ∃ run, fill = run ++ a.fill
      ∧ (∀ e ∈ run, e.state ≠ .inFlight)
      ∧ run.IsChain (fun e f => e.extent.stop = f.extent.start)
      ∧ (match run.head? with | none => a.F = F | some e => e.extent.start = F)
      ∧ (∀ e, run.getLast? = some e → a.F = e.extent.stop)
      ∧ (a.refused = false → ∀ e, a.fill.head? = some e → e.extent.start ≠ a.F ∨ e.state = .inFlight)
      ∧ (a.refused = true → ∃ e, a.fill.head? = some e ∧ e.extent.start = a.F ∧ e.state = .void
          ∧ 4 ≤ a.poison.length ∧ ∀ last, a.poison.getLast? = some last → last.stop ≠ a.F)
      ∧ (a.poison, a.added) = run.foldl (fun (list, added) e =>
          if e.state = .void then
            match list.getLast? with
            | some last =>
              if last.stop = e.extent.start then (list.dropLast ++ [⟨last.start, e.extent.stop⟩], added)
              else (list ++ [e.extent], added ++ [e.extent])
            | none => ([e.extent], added ++ [e.extent])
          else (list, added)) (poison, [])
      ∧ (poison.length ≤ 4 → a.poison.length ≤ 4)) ∧
  (∀ (D : Nat) (drain : List ScoreEntry),
    let a := absorbDrain D drain
    ∃ run, drain = run ++ a.1
      ∧ (∀ e ∈ run, e.state = .landed)
      ∧ run.IsChain (fun e f => e.extent.stop = f.extent.start)
      ∧ (match run.head? with | none => a.2 = D | some e => e.extent.start = D)
      ∧ (∀ e, run.getLast? = some e → a.2 = e.extent.stop)
      ∧ ∀ e, a.1.head? = some e → e.extent.start ≠ a.2 ∨ e.state ≠ .landed) ∧
  (∀ (A frontier : Nat) (e : ScoreEntry) (entries : List ScoreEntry),
    let place := fun f : ScoreEntry => signedDistance A frontier f.extent.start
    ∃ before behind, entries = before ++ behind ∧ insertEntry A frontier e entries = before ++ e :: behind
      ∧ (∀ f ∈ before, place f ≤ place e) ∧ ∀ f, behind.head? = some f → place e < place f) ∧
  (∀ entries : List ScoreEntry,
    let joins := fun e f : ScoreEntry => e.state = .landed ∧ f.state = .landed ∧ e.extent.stop = f.extent.start
    ∃ rows : List (List ScoreEntry), rows.flatten = entries
      ∧ (∀ row ∈ rows, row ≠ [] ∧ row.IsChain joins)
      ∧ List.Forall₂ (fun row m => ∀ first last, row.head? = some first → row.getLast? = some last →
          m = { extent := ⟨first.extent.start, last.extent.stop⟩, state := first.state
                transactions := row.flatMap ScoreEntry.transactions }) rows (mergeLanded entries)
      ∧ (mergeLanded entries).IsChain fun e f => ¬ joins e f) ∧
  (∀ (A K : Nat) (list : List Extent), retirePoison A K list
      = (list.filter fun e => decide (IsBeyond A K e.stop)).map fun e =>
          if IsBehind A K e.start then ⟨K, e.stop⟩ else e) ∧
  ∀ (A D : Nat) (entries : List ScoreEntry), cutDrain A D entries
      = (entries.filter fun e => decide (IsBeyond A D e.extent.stop)).map fun e =>
          if IsBehind A D e.extent.start then { e with extent := ⟨D, e.extent.stop⟩ } else e

/-- R83, R84, R110, R86, R34: the end of a ring read's last part by response, in every state of the ring and of the part,
the next state given whole. With every part OK it is answered DONE with the data of its parts joined in stream order,
and its IN_FLIGHT drain entry, if one remains, turns LANDED and merges; in ACTIVE, DRAINING and PAUSED D is then
absorbed, and when D moves one level evaluation follows, and then in ACTIVE one release scan for ROOM entries. With a
part failed it is answered FAULT with no data, its IN_FLIGHT entry is removed and D stays. F, W, K, the fill scoreboard
and the poison list are as before. Last come the clear-end test of the ring and the completion test of the part reset,
which change nothing while the part is RUNNING and the ring is not CLEARING. -/
def Obligations.ReadEndAnswersAndAbsorbs : Prop :=
  ∀ (s : State) (o : Outstanding) (x : Txn) (r : RingNo) (id : BitVec 6) (status : MemoryStatus)
    (data : List Byte), s.inReset = false →
    (s.mem.outstanding.map Outstanding.id).Nodup → o ∈ s.mem.outstanding → o.id.val = id.toNat →
    o.condition = .live → o.direction = .read → s.txn o.transaction = some x → x.direction = .read →
    x.ring = some r → x.outstanding = 1 →
    (status = .ok → data.length = o.length) →
    let ring := s.ring r
    let parts := x.parts.modify o.part.index fun p =>
      { p with result := if status = .ok then .ok else .failed, data := if status = .ok then data else [] }
    let ok := parts.all fun p => p.result = .ok
    let found := ring.drain.any fun e => e.state = .inFlight ∧ o.transaction ∈ e.transactions
    let landed := mergeLanded (turnEntry o.transaction .landed ring.drain)
    let a := absorbDrain ring.D landed
    let answered : State := { s with
      mem := { s.mem with outstanding := s.mem.outstanding.filter fun p => p.id ≠ o.id }
      sys := { s.sys with
        table := s.sys.table.set o.transaction.val (some { x with
          parts := parts, outstanding := 0, stage := .ready
          status := some (if ok then .done else .fault)
          data := if ok then parts.flatMap Part.data else [] })
        readyOrder := s.sys.readyOrder ++ [o.transaction] } }
    let absorbed := answered.setRing r { ring with D := a.2, drain := a.1 }
    let evaluated := absorbed.evaluateLevel r
    let done :=
      if ok = false then answered.setRing r { ring with
        drain := ring.drain.filter fun e => ¬ (e.state = .inFlight ∧ o.transaction ∈ e.transactions) }
      else if found = false then answered
      else if ¬ (ring.state = .active ∨ ring.state = .draining ∨ ring.state = .paused) then
        answered.setRing r { ring with drain := landed }
      else if a.2 = ring.D then absorbed
      else if ring.state = .active then evaluated.releaseScan r fun w => decide (w = .room)
      else evaluated
    (∃ c t, exec (.clearEnd r) done = .next c ∧ exec .partResetCompletion c = .next t
      ∧ exec (.memoryResponse id status data) s = .next t
      ∧ (s.part = .running → ring.state ≠ .clearing → t = done))
    ∧ done = { s with rings := done.rings, pool := done.pool, sys := done.sys, mem := done.mem, events := done.events }
    ∧ done.txn o.transaction = some { x with
        parts := parts, outstanding := 0, stage := .ready
        status := some (if ok then .done else .fault)
        data := if ok then parts.flatMap Part.data else [] }
    ∧ (∀ q, q ≠ r → done.ring q = s.ring q)
    ∧ (if ok = false then
        done.ring r = { ring with
          drain := ring.drain.filter fun e => ¬ (e.state = .inFlight ∧ o.transaction ∈ e.transactions) }
        ∧ done.pool = s.pool ∧ done.events = s.events
      else if found = false then done.ring r = ring
      else if ring.state = .active ∨ ring.state = .draining ∨ ring.state = .paused then
        done.ring r = { ring with D := a.2, drain := a.1, side := (done.ring r).side }
      else done.ring r = { ring with drain := landed })

/-- R143, R119: the end of a pass-through request's one part by response. OK answers DONE, a read with the response's
data; ERROR answers FAULT with no data and offers a PASS_FAULT record, with the global line and the master and tag,
when the record enable is on. No ring and no hold entry changes. -/
def Obligations.PassThroughEndAnswers : Prop :=
  ∀ (s : State) (o : Outstanding) (x : Txn) (p : Part) (id : BitVec 6) (status : MemoryStatus)
    (data : List Byte), s.inReset = false → s.part = .running →
    (s.mem.outstanding.map Outstanding.id).Nodup → o ∈ s.mem.outstanding → o.id.val = id.toNat →
    o.condition = .live → o.part = .first → s.txn o.transaction = some x → x.ring = none → x.outstanding = 1 →
    x.parts = [p] → (o.direction = .read → status = .ok → data.length = o.length) →
    let returned := if status = .ok ∧ o.direction = .read then data else []
    ∃ t, exec (.memoryResponse id status data) s = .next t
      ∧ t = { s with sys := t.sys, mem := t.mem, events := t.events }
      ∧ t.txn o.transaction = some { x with
          parts := [{ p with result := if status = .ok then .ok else .failed, data := returned }]
          outstanding := 0, stage := .ready
          status := some (if status = .ok then .done else .fault), data := returned }
      ∧ t.sys.readyOrder = s.sys.readyOrder ++ [o.transaction]
      ∧ t.mem = { s.mem with outstanding := s.mem.outstanding.filter fun q => q.id ≠ o.id }
      ∧ t.events = (if status = .error ∧ s.mgmt.passFaultEnable = true then
            (s.offer .passFault none s.mgmt.passFaultLine none (.source x.master x.tag)).events
          else s.events)

/-- R158, R108, R160: when the memory port takes an advance of the tick count, every live operation whose deadline is the
tick count expires, one after another in the order of their issue, oldest first. Each expiry does all that an ERROR
response for that operation does, except that the operation becomes an orphan, its id still in use. No other operation,
nothing in the issue queue and no id changes; and a request whose last part is the one operation of its own that
expires is answered FAULT with no data, however many expire beside it. -/
def Obligations.TimeoutOrphansExpiredOperations : Prop :=
  ∀ s : State, s.inReset = false → (s.mem.outstanding.map Outstanding.id).Nodup →
    let due := fun o : Outstanding => decide (o.condition = .live ∧ o.deadline = s.time.count)
    let expired := s.mem.outstanding.filter due
    let expire := fun (t : State) (o : Outstanding) =>
      match exec (.memoryResponse (BitVec.ofNat 6 o.id.val) .error []) t with
      | .next e => { e with mem := { t.mem with
          outstanding := t.mem.outstanding.map fun p => if p.id = o.id then { p with condition := .orphan } else p } }
      | _ => t
    ∃ t, exec .responseTimeout s = .next t
      ∧ t = expired.foldl expire s
      ∧ t.mem = { s.mem with
          outstanding := s.mem.outstanding.map fun o => if due o then { o with condition := .orphan } else o }
      ∧ (expired = [] → t = s)
      ∧ ∀ o ∈ expired, (∀ p ∈ expired, p.transaction = o.transaction → p = o) →
          ∀ x, s.txn o.transaction = some x → x.stage = .outstanding → x.outstanding = 1 →
            o.part.index < x.parts.length → (∀ h ∈ s.pool.entries, h.transaction ≠ o.transaction) →
            t.txn o.transaction = some { x with
              parts := x.parts.modify o.part.index fun p => { p with result := .failed, data := [] }
              outstanding := 0, stage := .ready, status := some .fault, data := [] }

/-! ## The tick count -/

/-- R169: cycles before the interval's divider + 1 only count; the cycle that reaches it is a tick, which advances the
tick count by one and begins the next interval under the divider as written; and cycles add up. What the advance of
the tick count before asked and nobody took yet is taken as the tick comes (the model's choice, log entry 2): with
nothing due the tick changes the timebase alone, and with one taker it is that taker's event. -/
def Obligations.TickAfterDividerPlusOne : Prop :=
  ∀ s : State, s.inReset = false →
    (∀ n, s.time.cycles + n ≤ s.time.intervalDivider.toNat →
      exec (.tick n) s = .next { s with time := { s.time with cycles := s.time.cycles + n } }) ∧
    (s.time.cycles = s.time.intervalDivider.toNat →
      let ticked : Timebase := { s.time with
        count := s.time.count + 1, cycles := 0, intervalDivider := s.time.divider }
      let poolDue := ∃ h ∈ s.pool.entries, h.state = .waiting ∧ h.deadline = s.time.count
      let memoryDue := ∃ o ∈ s.mem.outstanding, o.condition = .live ∧ o.deadline = s.time.count
      ∃ t, exec (.tick 1) s = .next t ∧ t.time = ticked
        ∧ (¬ poolDue → ¬ memoryDue → t = { s with time := ticked })
        ∧ (¬ memoryDue → ∀ e, exec .expiry s = .next e → t = { e with time := ticked })
        ∧ (¬ poolDue → ∀ e, exec .responseTimeout s = .next e → t = { e with time := ticked })) ∧
    ∀ m n t, exec (.tick m) s = .next t → exec (.tick (m + n)) s = exec (.tick n) t

/-- R100, R102: when the pool takes an advance of the tick count, exactly the WAITING entries whose deadline is the tick
count leave it, with their slots; their requests become READY in the grant order, answered LATE with no data, and each
ring's late counter rises by the number of its entries, up to FFFFh. No frontier, no event record and no other request
changes. -/
def Obligations.ExpiryAnswersLate : Prop :=
  ∀ s : State, s.inReset = false → s.pool.WellFormed → (s.pool.entries.map HoldEntry.transaction).Nodup →
    (∀ h ∈ s.pool.entries, s.txn h.transaction ≠ none) →
    let due := fun h : HoldEntry => decide (h.state = .waiting ∧ h.deadline = s.time.count)
    let gone := s.pool.entries.filter due
    ∃ t, exec .expiry s = .next t
      ∧ t = { s with rings := t.rings, pool := t.pool, sys := t.sys }
      ∧ t.pool = { s.pool with entries := s.pool.entries.filter fun h => ! due h }
      ∧ t.sys.readyOrder = s.sys.readyOrder ++ gone.map HoldEntry.transaction
      ∧ t.sys.undelivered = s.sys.undelivered ∧ t.sys.link = s.sys.link
      ∧ (∀ h ∈ gone, ∀ x, s.txn h.transaction = some x →
          t.txn h.transaction = some { x with stage := .ready, status := some .late, data := [] })
      ∧ (∀ u, (∀ h ∈ gone, h.transaction ≠ u) → t.txn u = s.txn u)
      ∧ ∀ r, ∃ c : BitVec 16, t.ring r = { s.ring r with lateCount := c }
          ∧ c.toNat = min 0xFFFF ((s.ring r).lateCount.toNat + gone.countP fun h => h.ring = r)

/-! ## Ring commands

Each is the complete write of the ring's command register: the port acknowledges it and its pointer then names the
next register (log entry 8). -/

/-- R26, R29: ENABLE in OFF makes the seven checks in their order, and the first that fails gives REFUSED_CONFIG with
its reason and changes nothing else; a ring that passes them gets S0 modulo A in all four frontiers, empty
scoreboards and poison list, counters at 0, LOW_SIDE, ACTIVE and ACCEPTED, and no event record. -/
def Obligations.EnableChecksAndActivates : Prop :=
  ∀ (s : State) (r : RingNo), s.inReset = false → s.part = .running → (s.ring r).state = .off →
    let x := s.ring r
    let a := x.structural.apertureExponent.toNat
    let c := x.structural.capacityExponent.toNat
    let high := x.active.highMark.toNat
    let refused := fun reason => exec (.enable r) s = .next
      ((s.setRing r { x with outcome := .refusedConfig reason }).acknowledge (controlAddress r 0x28))
    let align := ¬ x.A ∣ x.apertureStart ∨ ¬ 256 ∣ x.spanStart
    let size := ¬ (20 ≤ a ∧ a ≤ 30) ∨ ¬ (12 ≤ c ∧ c ≤ 24) ∨ x.A < 4 * x.C
    let aperture := ∃ q, q ≠ r ∧ (s.ring q).state ≠ .off ∧
      (RangesMeet x.apertureStart x.A (s.ring q).apertureStart (s.ring q).A
        ∨ RangesMeet x.apertureStart x.A (s.ring q).spanStart (s.ring q).C)
    let span := 2 ^ 40 < x.spanStart + x.C ∨ RangesMeet x.spanStart x.C x.apertureStart x.A
      ∨ ∃ q, q ≠ r ∧ (s.ring q).state ≠ .off ∧
        (RangesMeet x.spanStart x.C (s.ring q).spanStart (s.ring q).C
          ∨ RangesMeet x.spanStart x.C (s.ring q).apertureStart (s.ring q).A)
    let marks := high = 0 ∨ x.C < high ∨ ¬ x.active.lowMark.toNat < high
    let timeout := x.active.holdTimeout = 0 ∧ (x.active.underrun = .wait ∨ x.active.overrun = .block)
    let quota := 32 < x.active.holdQuota.toNat
    let p := x.structural.startOffset.toNat % x.A
    (align → refused .align) ∧ (¬ align → size → refused .size) ∧
    (¬ align → ¬ size → aperture → refused .aperture) ∧
    (¬ align → ¬ size → ¬ aperture → span → refused .span) ∧
    (¬ align → ¬ size → ¬ aperture → ¬ span → marks → refused .marks) ∧
    (¬ align → ¬ size → ¬ aperture → ¬ span → ¬ marks → timeout → refused .timeout) ∧
    (¬ align → ¬ size → ¬ aperture → ¬ span → ¬ marks → ¬ timeout → quota → refused .quota) ∧
    (¬ align → ¬ size → ¬ aperture → ¬ span → ¬ marks → ¬ timeout → ¬ quota →
      exec (.enable r) s = .next ((s.setRing r { x with
          D := p, F := p, W := p, K := p
          fill := [], drain := [], poison := []
          discardCount := 0, overtakeCount := 0, lateCount := 0
          side := .low, state := .active, outcome := .accepted }).acknowledge (controlAddress r 0x28)))

/-- R30, R31, R104: PAUSE in ACTIVE sets DRAINING and ACCEPTED and answers the hold list, writes STOPPED and reads EMPTY;
with no IN_FLIGHT fill entry the ring becomes PAUSED in the same event and PAUSED is raised with F. DRAIN_END is that
test alone: it changes nothing unless the ring is DRAINING with no IN_FLIGHT fill entry. -/
def Obligations.PauseBeginsDrain : Prop :=
  (∀ (s : State) (r : RingNo), s.inReset = false → s.part = .running → (s.ring r).state = .active →
    let x := s.ring r
    let held := (s.setRing r { x with state := .draining, outcome := .accepted }).answerHoldList r fun h =>
      if h.reason = .room then .stopped else .empty
    let done := fun t : State => exec (.pause r) s = .next (t.acknowledge (controlAddress r 0x28))
    ((∃ e ∈ x.fill, e.state = .inFlight) → done held) ∧
    ((∀ e ∈ x.fill, e.state ≠ .inFlight) → done
      ((held.setRing r { x with state := .paused, outcome := .accepted }).raise r .paused (some x.F) .absent))) ∧
  ∀ (s : State) (r : RingNo), s.inReset = false →
    let x := s.ring r
    (x.state = .draining → (∀ e ∈ x.fill, e.state ≠ .inFlight) → exec (.drainEnd r) s = .next
      ((s.setRing r { x with state := .paused }).raise r .paused (some x.F) .absent)) ∧
    ((x.state ≠ .draining ∨ ∃ e ∈ x.fill, e.state = .inFlight) → exec (.drainEnd r) s = .next s)

/-- R32: RESUME in PAUSED makes the ring ACTIVE with the command status ACCEPTED, and in any other state the command
status REFUSED_STATE; nothing else of any ring changes, and of the rest of the part only the management port's own
acknowledgement and pointer. After it no write is STOPPED or HALTED by the state of the ring, and no consuming read is
EMPTY under WAIT. -/
def Obligations.ResumeReturnsToActive : Prop :=
  ∀ (s : State) (r : RingNo), s.inReset = false → s.part = .running →
    let resumed : Ring := { s.ring r with state := .active, outcome := .accepted }
    ((s.ring r).state = .paused →
      exec (.resume r) s = .next ((s.setRing r resumed).acknowledge (controlAddress r 0x28))) ∧
    ((s.ring r).state ≠ .paused → exec (.resume r) s = .next
      ((s.setRing r { s.ring r with outcome := .refusedState }).acknowledge (controlAddress r 0x28))) ∧
    (∀ m e, judgeWrite resumed m e ≠ .answer .stopped ∧ judgeWrite resumed m e ≠ .answer .halted) ∧
    ∀ e, resumed.active.underrun = .wait → judgeRead resumed .consume e ≠ .answer .empty

/-- R33, R105: HALT in ACTIVE, DRAINING and PAUSED sets HALTED and ACCEPTED, answers the hold list HALTED and raises
HALTED with F; the frontiers, the side, the scoreboards and the pending flag stay as they are. -/
def Obligations.HaltFreezesRing : Prop :=
  ∀ (s : State) (r : RingNo), s.inReset = false → s.part = .running →
    ((s.ring r).state = .active ∨ (s.ring r).state = .draining ∨ (s.ring r).state = .paused) →
    exec (.halt r) s = .next (State.acknowledge
      (((s.setRing r { s.ring r with state := .halted, outcome := .accepted }).answerHoldList r
        fun _ => .halted).raise r .halted (some (s.ring r).F) .absent)
      (controlAddress r 0x28))

/-- R36, R37, R106: CLEAR in ACTIVE, DRAINING, PAUSED and HALTED answers the hold list ABORTED and sets CLEARING and
ACCEPTED; with no operation of the ring queued or live (orphans not counted) the clear ends in the same event. CLEAR in
OFF is ACCEPTED and does nothing. CLEAR_END is the end of the clear alone: scoreboards, poison list and counters are
emptied, a pending shadow set is applied without checks, the ring's ACCEPTED requests are marked cleared, the state
becomes OFF and CLEARED is raised with no position under the routing after the apply. -/
def Obligations.ClearAnswersAndEnds : Prop :=
  let left := fun (s : State) (r : RingNo) =>
    (∃ o ∈ s.mem.queue, s.ringOf o.transaction = some r)
      ∨ ∃ o ∈ s.mem.outstanding, o.condition = .live ∧ s.ringOf o.transaction = some r
  (∀ (s : State) (r : RingNo), s.inReset = false → s.part = .running →
    let x := s.ring r
    let clearing := (s.answerHoldList r fun _ => .aborted).setRing r
      { x with state := .clearing, outcome := .accepted }
    (x.state = .off → exec (.clear r) s = .next
      ((s.setRing r { x with outcome := .accepted }).acknowledge (controlAddress r 0x28))) ∧
    (x.state = .active ∨ x.state = .draining ∨ x.state = .paused ∨ x.state = .halted →
      (left s r → exec (.clear r) s = .next (clearing.acknowledge (controlAddress r 0x28))) ∧
      (¬ left s r → ∃ t, exec (.clearEnd r) clearing = .next t ∧ (t.ring r).state = .off
        ∧ exec (.clear r) s = .next (t.acknowledge (controlAddress r 0x28))))) ∧
  ∀ (s : State) (r : RingNo), s.inReset = false →
    let x := s.ring r
    ((x.state ≠ .clearing ∨ left s r) → exec (.clearEnd r) s = .next s) ∧
    (x.state = .clearing → ¬ left s r → ∃ t, exec (.clearEnd r) s = .next t
      ∧ t = { s with rings := t.rings, sys := t.sys, events := t.events }
      ∧ (∀ q, q ≠ r → t.ring q = s.ring q)
      ∧ t.ring r = { x with
          fill := [], drain := [], poison := []
          discardCount := 0, overtakeCount := 0, lateCount := 0
          active := if x.pending then x.shadow else x.active
          pending := false, state := .off }
      ∧ t.sys = { s.sys with table := t.sys.table }
      ∧ (∀ u, t.txn u = (s.txn u).map fun y =>
          if y.ring = some r ∧ y.stage = .accepted then { y with cleared := true } else y)
      ∧ t.events = ((s.setRing r (t.ring r)).raise r .cleared none .absent).events)

/-- R21 to R23, R38: when and how a shadow set is applied by management. A shadow write replaces the register's fields in
the shadow set: in OFF the set is applied without checks; in ACTIVE, DRAINING and CLEARING it stays pending; in PAUSED
and HALTED it is applied under the checks of R22, with a level evaluation and no APPLIED. APPLY_NOW does nothing with no
set pending; otherwise, under the checks, it applies the set, evaluates the level, scans the hold list when the ring is
ACTIVE and raises APPLIED with F under the new routing. A failing check is reported with its reason and leaves the
active set, with the pending flag set. -/
def Obligations.ShadowSetIsApplied : Prop :=
  let refusal := fun (l : Live) (C : Nat) (w : Option ConfigReason) =>
    let marks := l.highMark.toNat = 0 ∨ C < l.highMark.toNat ∨ ¬ l.lowMark.toNat < l.highMark.toNat
    let timeout := l.holdTimeout = 0 ∧ (l.underrun = .wait ∨ l.overrun = .block)
    let quota := 32 < l.holdQuota.toNat
    match w with
    | none => ¬ marks ∧ ¬ timeout ∧ ¬ quota
    | some reason => (reason = .marks ∧ marks) ∨ (reason = .timeout ∧ ¬ marks ∧ timeout)
        ∨ (reason = .quota ∧ ¬ marks ∧ ¬ timeout ∧ quota)
  (∀ (s : State) (r : RingNo) (g : LiveReg) (v : Word), s.inReset = false → s.part = .running →
    let y : Ring := { s.ring r with shadow := (s.ring r).shadow.write g v }
    let done := fun t : State =>
      exec (.shadowWrite r g v) s = .next (t.acknowledge (controlAddress r (liveOffset g + 4)))
    (y.state = .off → done (s.setRing r { y with active := y.shadow })) ∧
    (y.state = .active ∨ y.state = .draining ∨ y.state = .clearing → done (s.setRing r { y with pending := true })) ∧
    (y.state = .paused ∨ y.state = .halted →
      (refusal y.shadow y.C none →
        done ((s.setRing r { y with active := y.shadow, pending := false }).evaluateLevel r)) ∧
      ∀ reason, refusal y.shadow y.C (some reason) →
        done (s.setRing r { y with pending := true, outcome := .refusedConfig reason }))) ∧
  ∀ (s : State) (r : RingNo), s.inReset = false → s.part = .running → (s.ring r).state ≠ .off →
    let x := s.ring r
    let done := fun t : State => exec (.applyNow r) s = .next (t.acknowledge (controlAddress r 0x28))
    (x.pending = false → done (s.setRing r { x with outcome := .accepted })) ∧
    (x.pending = true →
      (∀ reason, refusal x.shadow x.C (some reason) →
        done (s.setRing r { x with outcome := .refusedConfig reason })) ∧
      (refusal x.shadow x.C none →
        let t := (s.setRing r { x with active := x.shadow, pending := false, outcome := .accepted }).evaluateLevel r
        (x.state = .active → done ((t.releaseScan r fun _ => true).raise r .applied (some x.F) .absent)) ∧
        (x.state ≠ .active → done (t.raise r .applied (some x.F) .absent))))

/-- R39: SNAPSHOT is ACCEPTED in every ring state and copies the frontiers, the level δ(D→F), the side, the counts of
both scoreboards and of the hold list, the pending flag and the state, all of one moment, into the snapshot
registers. (In OFF the level is measured under the present aperture size exponent, log entry 27.) -/
def Obligations.SnapshotCopiesRing : Prop :=
  ∀ (s : State) (r : RingNo), s.inReset = false → s.part = .running →
    let x := s.ring r
    exec (.snapshot r) s = .next ((s.setRing r { x with
      outcome := .accepted
      snapshot :=
        { D := x.D, F := x.F, W := x.W, K := x.K, level := distance x.A x.D x.F, side := x.side
          fillCount := x.fill.length, drainCount := x.drain.length
          heldCount := (s.pool.entries.filter fun h => h.ring = r).length
          pending := x.pending, state := x.state } }).acknowledge (controlAddress r 0x28))

/-- R28, R42, R166: writes that are turned away. While RUNNING, a command in a state that does not take it, and a code
that names no command in every state, sets the command status REFUSED_STATE and changes nothing else of the ring.
While RESETTING, a write to any writable register of a ring control block changes nothing but the LOCKED flag. -/
def Obligations.TurnedAwayWritesChangeNothingElse : Prop :=
  ∀ (s : State) (r : RingNo), s.inReset = false →
    let refused := fun c => exec c s = .next
      ((s.setRing r { s.ring r with outcome := .refusedState }).acknowledge (controlAddress r 0x28))
    let locked := fun c next => exec c s = .next
      ((s.setFlags { s.mgmt.flags with locked := true }).acknowledge (controlAddress r next))
    (s.part = .running →
      ((s.ring r).state ≠ .off → refused (.enable r)) ∧
      ((s.ring r).state ≠ .active → refused (.pause r)) ∧
      ((s.ring r).state ≠ .paused → refused (.resume r)) ∧
      ((s.ring r).state = .off ∨ (s.ring r).state = .halted ∨ (s.ring r).state = .clearing → refused (.halt r)) ∧
      ((s.ring r).state = .clearing → refused (.clear r)) ∧
      ((s.ring r).state = .off → refused (.applyNow r)) ∧
      ∀ code : BitVec 4, code = 0 ∨ 8 ≤ code.toNat → refused (.undefinedCommand r code)) ∧
    (s.part = .resetting →
      (∀ c, c = .enable r ∨ c = .pause r ∨ c = .resume r ∨ c = .halt r ∨ c = .clear r ∨ c = .applyNow r
        ∨ c = .snapshot r ∨ (∃ code, c = .undefinedCommand r code) → locked c 0x28) ∧
      (∀ g v, locked (.structuralWrite r g v) (structuralOffset g + 4)) ∧
      (∀ g v, locked (.shadowWrite r g v) (liveOffset g + 4)) ∧
      (∀ g v, locked (.counterWrite r g v) (counterOffset g + 4)) ∧
      ∀ v, locked (.lateCounterWrite r v) 0x34)

/-! ## Register writes -/

/-- R20, R67, R102, R128, R130, R167, R169, R170: the complete write of each register that stores or clears fields. A
structural register in OFF takes its fields, and in any other state the write sets LOCKED and changes nothing else; a
write to a counter sets it to 0 whatever its value; a one clears the lost flag, with marker pending as it is, and each
error flag; the divider waits for the next interval; a memory timeout of 0 to 15 is stored as 16; the line enables
re-evaluate the lines at once. -/
def Obligations.RegisterWritesStoreTheirFields : Prop :=
  ∀ s : State, s.inReset = false →
    (s.part = .running → ∀ r : RingNo,
      (∀ g v, (s.ring r).state = .off → exec (.structuralWrite r g v) s = .next
        ((s.setRing r { s.ring r with structural := (s.ring r).structural.write g v }).acknowledge
          (controlAddress r (structuralOffset g + 4)))) ∧
      (∀ g v, (s.ring r).state ≠ .off → exec (.structuralWrite r g v) s = .next
        ((s.setFlags { s.mgmt.flags with locked := true }).acknowledge
          (controlAddress r (structuralOffset g + 4)))) ∧
      (∀ v, exec (.counterWrite r .discard v) s = .next
        ((s.setRing r { s.ring r with discardCount := 0 }).acknowledge (controlAddress r 0x2C))) ∧
      (∀ v, exec (.counterWrite r .overtake v) s = .next
        ((s.setRing r { s.ring r with overtakeCount := 0 }).acknowledge (controlAddress r 0x30))) ∧
      ∀ v, exec (.lateCounterWrite r v) s = .next
        ((s.setRing r { s.ring r with lateCount := 0 }).acknowledge (controlAddress r 0x34))) ∧
    exec .lostFlagClear s = .next
      (State.acknowledge { s with events := { s.events with lost := false } } 0x008) ∧
    (∀ v, exec (.errorFlagsClear v) s = .next ((s.setFlags
      { addr := s.mgmt.flags.addr && !v.getLsbD 0
        locked := s.mgmt.flags.locked && !v.getLsbD 1
        partialEnd := s.mgmt.flags.partialEnd && !v.getLsbD 2
        popMismatch := s.mgmt.flags.popMismatch && !v.getLsbD 3 }).acknowledge 0x030)) ∧
    (∀ v, exec (.tickDividerWrite v) s = .next
      (State.acknowledge { s with time := { s.time with divider := v.extractLsb' 0 10 } } 0x00C)) ∧
    (∀ v, exec (.memoryTimeoutWrite v) s = .next
      (State.acknowledge { s with mgmt := { s.mgmt with
        memoryTimeout := if (v.extractLsb' 0 16).toNat < 16 then 16 else v.extractLsb' 0 16 } } 0x010)) ∧
    (∀ v, exec (.passFaultRoutingWrite v) s = .next
      (State.acknowledge { s with mgmt := { s.mgmt with
        passFaultEnable := v.getLsbD 0, passFaultLine := v.extractLsb' 4 2 } } 0x018)) ∧
    ∀ v, ∃ lines : BitVec 4,
      (∀ n < 4, lines.getLsbD n = true ↔ v.getLsbD n = true ∧ ∃ e ∈ s.events.records, e.line.toNat = n)
      ∧ exec (.lineEnableWrite v) s = .next (State.acknowledge { s with
          mgmt := { s.mgmt with lineEnables := v.extractLsb' 0 4 }
          events := { s.events with lines := lines } } 0x014)

/-- R132: a pop request compares the low byte of the written value with the sequence of the head. Equal: the head is
removed and the lines are re-evaluated. Not equal, or an empty queue: nothing is removed and POP_MISMATCH is set. It
is so in RUNNING and in RESETTING. -/
def Obligations.EventPopTakesTheNamedHead : Prop :=
  ∀ (s : State) (v : Word), s.inReset = false →
    let mismatch := exec (.eventPop v) s = .next
      ((s.setFlags { s.mgmt.flags with popMismatch := true }).acknowledge 0x02C)
    (s.events.records = [] → mismatch) ∧
    ∀ head rest, s.events.records = head :: rest →
      (v.extractLsb' 0 8 ≠ head.sequence → mismatch) ∧
      (v.extractLsb' 0 8 = head.sequence → ∃ lines : BitVec 4,
        (∀ n < 4, lines.getLsbD n = true ↔ s.mgmt.lineEnables.getLsbD n = true ∧ ∃ e ∈ rest, e.line.toNat = n)
        ∧ exec (.eventPop v) s = .next (State.acknowledge { s with
            events := { s.events with records := rest, lines := lines } } 0x02C))

/-- R164, R166, R168: a complete data group, whose first byte is the least significant of the value and whose fourth
is the most significant, is the write of the register that the pointer names: it does what the command of that write
does, the pointer moving on by 4; a write to an unmapped or read-only address sets ADDR and changes nothing else; and
a control write with a one in both fields clears the lost flag and takes RESET_PART (in that order, the model's
choice, log entry 7). -/
def Obligations.RegisterWriteIsTheNamedWrite : Prop :=
  ∀ (s : State) (v : Word), s.inReset = false → s.PointerAligned →
    let write := exec (.registerWrite s.mgmt.i2cAddress
      { first := v.extractLsb' 0 8, second := v.extractLsb' 8 8
        third := v.extractLsb' 16 8, fourth := v.extractLsb' 24 8 }) s
    match Reg.ofAddress s.mgmt.pointer with
    | .unmapped | .identification | .tickCount | .occupancy | .eventHead0 | .eventHead1 | .status _ _ =>
        write = .next ((s.setFlags { s.mgmt.flags with addr := true }).acknowledge (s.mgmt.pointer + 4))
    | .control => write = match v.getLsbD 1, v.getLsbD 8 with
        | false, false => .next (s.acknowledge 0x008)
        | true, false => exec .lostFlagClear s
        | false, true => exec .resetPart s
        | true, true => exec .resetPart { s with events := { s.events with lost := false } }
    | .divider => write = exec (.tickDividerWrite v) s
    | .memoryTimeout => write = exec (.memoryTimeoutWrite v) s
    | .lineEnables => write = exec (.lineEnableWrite v) s
    | .passFault => write = exec (.passFaultRoutingWrite v) s
    | .eventPop => write = exec (.eventPop v) s
    | .errorFlags => write = exec (.errorFlagsClear v) s
    | .structural r g => write = exec (.structuralWrite r g v) s
    | .live r g => write = exec (.shadowWrite r g v) s
    | .fillCounter r g => write = exec (.counterWrite r g v) s
    | .lateCounter r => write = exec (.lateCounterWrite r v) s
    | .command r => write = exec (match (v.extractLsb' 0 4).toNat with
        | 1 => .enable r
        | 2 => .pause r
        | 3 => .resume r
        | 4 => .halt r
        | 5 => .clear r
        | 6 => .applyNow r
        | 7 => .snapshot r
        | _ => .undefinedCommand r (v.extractLsb' 0 4)) s

/-- R163, R164: the two register address bytes, high byte first, set the pointer, whose two low bits are ignored; a
STOP after one address byte or inside a group sets PARTIAL and keeps the pointer and every register; a STOP anywhere
else changes nothing; and a transaction addressed elsewhere is not acknowledged and changes nothing. -/
def Obligations.PointerAndStops : Prop :=
  ∀ (s : State) (target : BitVec 7), s.inReset = false →
    (target = s.mgmt.i2cAddress →
      (∀ a : BitVec 16, exec (.registerPointerSet target { high := a.extractLsb' 8 8, low := a.extractLsb' 0 8 }) s =
        .next { s with mgmt := { s.mgmt with acknowledged := true, pointer := a &&& 0xFFFC } }) ∧
      (∀ stop, stop = .noAddressByte ∨ stop = .noData ∨ stop = .afterGroup →
        exec (.partialWriteEnd target stop) s = .next { s with mgmt := { s.mgmt with acknowledged := true } }) ∧
      ∀ stop, (∃ b, stop = .oneAddressByte b) ∨ (∃ l, stop = .insideGroup l) →
        exec (.partialWriteEnd target stop) s = .next { s with mgmt := { s.mgmt with
          acknowledged := true, flags := { s.mgmt.flags with partialEnd := true } } }) ∧
    (target ≠ s.mgmt.i2cAddress → ∀ group bytes stop n c,
      c = .registerWrite target group ∨ c = .registerPointerSet target bytes
        ∨ c = .partialWriteEnd target stop ∨ c = .registerRead target n →
      exec c s = .next { s with mgmt := { s.mgmt with acknowledged := false } })

/-- R165, R168, R131, R39, R111, 10.7: a read captures the register that the pointer names, returns as many of its four
bytes as the controller takes, least significant first, moves the pointer on after the fourth and changes nothing else;
and what every register presents: the global registers, a ring's structural fields, the shadow set of its live fields,
its command status and counters, its snapshot registers and its poison list as it stands. -/
def Obligations.RegisterReadReturnsCapturedWord : Prop :=
  (∀ (s : State) (n : Nat), s.inReset = false → 1 ≤ n → n ≤ 4 →
    let w := s.readReg (Reg.ofAddress s.mgmt.pointer)
    exec (.registerRead s.mgmt.i2cAddress n) s = .next { s with mgmt := { s.mgmt with
      acknowledged := true
      pointer := if n = 4 then s.mgmt.pointer + 4 else s.mgmt.pointer
      returned := List.take n
        [w.extractLsb' 0 8, w.extractLsb' 8 8, w.extractLsb' 16 8, w.extractLsb' 24 8] } }) ∧
  ∀ s : State,
    (s.readReg .identification = 0x0142187A ∧ s.readReg .unmapped = 0 ∧ s.readReg .eventPop = 0
      ∧ s.readReg .tickCount = s.time.count) ∧
    (s.readReg .divider = s.time.divider.setWidth 32
      ∧ s.readReg .memoryTimeout = s.mgmt.memoryTimeout.setWidth 32
      ∧ s.readReg .lineEnables = s.mgmt.lineEnables.setWidth 32) ∧
    (∀ i, (s.readReg .passFault).getLsbD i = true ↔ (i = 0 ∧ s.mgmt.passFaultEnable = true)
      ∨ (i = 4 ∧ s.mgmt.passFaultLine.getLsbD 0 = true) ∨ (i = 5 ∧ s.mgmt.passFaultLine.getLsbD 1 = true)) ∧
    (∀ i, (s.readReg .errorFlags).getLsbD i = true ↔
      (i = 0 ∧ s.mgmt.flags.addr = true) ∨ (i = 1 ∧ s.mgmt.flags.locked = true)
      ∨ (i = 2 ∧ s.mgmt.flags.partialEnd = true) ∨ (i = 3 ∧ s.mgmt.flags.popMismatch = true)) ∧
    (∀ i, (s.readReg .control).getLsbD i = true ↔
      (i = 0 ∧ s.part = .resetting) ∨ (i = 1 ∧ s.events.lost = true)) ∧
    ((s.readReg .occupancy).extractLsb' 0 7 = BitVec.ofNat 7 (s.sys.table.toList.countP Option.isSome)
      ∧ (s.readReg .occupancy).extractLsb' 7 6 = BitVec.ofNat 6 s.pool.entries.length
      ∧ (s.readReg .occupancy).extractLsb' 13 6 = BitVec.ofNat 6 s.events.records.length
      ∧ (s.readReg .occupancy).extractLsb' 19 6
          = BitVec.ofNat 6 (s.mem.outstanding.countP fun o => o.condition = .live)
      ∧ (s.readReg .occupancy).extractLsb' 25 6
          = BitVec.ofNat 6 (s.mem.outstanding.countP fun o => o.condition = .orphan)) ∧
    (s.events.records = [] → s.readReg .eventHead0 = 0 ∧ s.readReg .eventHead1 = 0) ∧
    (∀ e rest, s.events.records = e :: rest →
      (s.readReg .eventHead0).extractLsb' 0 8 = e.sequence
      ∧ (s.readReg .eventHead0).extractLsb' 8 4 = BitVec.ofNat 4 e.kind.code
      ∧ (s.readReg .eventHead0).extractLsb' 12 4 = BitVec.ofNat 4 (match e.ring with | some r => r.val | none => 0)
      ∧ (s.readReg .eventHead0).getLsbD 16 = e.afterLoss
      ∧ (s.readReg .eventHead0).extractLsb' 17 15 = (match e.count with
          | .absent => 0
          | .bytes n => if n < 0x7FFF then BitVec.ofNat 15 n else 0x7FFF
          | .source m t => 0#5 ++ t ++ BitVec.ofNat 4 m.val)
      ∧ (s.readReg .eventHead1).extractLsb' 0 30
          = BitVec.ofNat 30 (match e.position with | some p => p | none => 0)
      ∧ (s.readReg .eventHead1).extractLsb' 30 2 = e.line) ∧
    ∀ r : RingNo,
      ((s.readReg (.command r)).extractLsb' 0 2 = (match (s.ring r).outcome with
          | .accepted => 0
          | .refusedState => 1
          | .refusedConfig _ => 2)
      ∧ (s.readReg (.command r)).extractLsb' 4 3 = (match (s.ring r).outcome with
          | .refusedConfig reason => reason.code
          | _ => 0)
      ∧ ((s.readReg (.command r)).getLsbD 8 = true ↔
          (s.ring r).state = .draining ∨ (s.ring r).state = .clearing)) ∧
      ((∀ g, s.readReg (.structural r g) = (s.ring r).structural.read g)
      ∧ (∀ g, s.readReg (.live r g) = (s.ring r).shadow.read g)
      ∧ s.readReg (.fillCounter r .discard) = (s.ring r).discardCount.setWidth 32
      ∧ s.readReg (.fillCounter r .overtake) = (s.ring r).overtakeCount.setWidth 32
      ∧ s.readReg (.lateCounter r) = (s.ring r).lateCount.setWidth 32) ∧
      (let shot := (s.ring r).snapshot
      s.readReg (.status r .snapshotD) = BitVec.ofNat 32 (shot.D % 2 ^ 30)
      ∧ s.readReg (.status r .snapshotF) = BitVec.ofNat 32 (shot.F % 2 ^ 30)
      ∧ s.readReg (.status r .snapshotW) = BitVec.ofNat 32 (shot.W % 2 ^ 30)
      ∧ s.readReg (.status r .snapshotK) = BitVec.ofNat 32 (shot.K % 2 ^ 30)
      ∧ (s.readReg (.status r .levelSideState)).extractLsb' 0 25 = BitVec.ofNat 25 shot.level
      ∧ (s.readReg (.status r .levelSideState)).extractLsb' 25 3 = 0
      ∧ ((s.readReg (.status r .levelSideState)).getLsbD 28 = true ↔ shot.side = .high)
      ∧ (s.readReg (.status r .levelSideState)).extractLsb' 29 3 = (match shot.state with
          | .off => 0
          | .active => 1
          | .draining => 2
          | .paused => 3
          | .halted => 4
          | .clearing => 5)
      ∧ (s.readReg (.status r .counts)).extractLsb' 0 8 = BitVec.ofNat 8 (shot.fillCount % 16)
      ∧ (s.readReg (.status r .counts)).extractLsb' 8 8 = BitVec.ofNat 8 (shot.drainCount % 16)
      ∧ (s.readReg (.status r .counts)).extractLsb' 16 8 = BitVec.ofNat 8 (shot.heldCount % 64)
      ∧ (s.readReg (.status r .counts)).extractLsb' 24 8 = (if shot.pending then 1 else 0)) ∧
      s.readReg (.status r .poisonCount) = BitVec.ofNat 32 ((s.ring r).poison.length % 8)
      ∧ ∀ i : Fin 4, match (s.ring r).poison[i.val]? with
        | some e => s.readReg (.status r (.poisonStart i)) = BitVec.ofNat 32 (e.start % 2 ^ 30)
          ∧ s.readReg (.status r (.poisonLength i)) = BitVec.ofNat 32 (distance (s.ring r).A e.start e.stop % 2 ^ 25)
        | none => s.readReg (.status r (.poisonStart i)) = 0 ∧ s.readReg (.status r (.poisonLength i)) = 0

/-! ## Events, the level monitor, the release scan -/

/-- R125, R127, R128, R122: a record offered while fewer than 32 are held is stored at the tail with the next sequence
number and the after-loss marker if one is pending, and the lines are re-evaluated; a record offered to a full queue is
lost, setting the lost flag and marker pending. A ring's event is offered, on the ring's line, when its active kind mask
includes the kind. An evaluation of the level monitor makes the one comparison of its side's row. -/
def Obligations.RecordsAreStoredOrLost : Prop :=
  (∀ (s : State) (k : EventKind) (ring : Option RingNo) (line : BitVec 2) (p : Option Nat) (c : EventCount),
    (s.events.records.length < 32 → ∃ lines : BitVec 4,
      s.offer k ring line p c = { s with events := {
        records := s.events.records ++
          [{ sequence := s.events.nextSequence, kind := k, ring := ring, line := line
             afterLoss := s.events.markerPending, position := p, count := c }]
        nextSequence := s.events.nextSequence + 1
        lost := s.events.lost
        markerPending := false
        lines := lines } }
      ∧ ∀ n < 4, lines.getLsbD n = true ↔ s.mgmt.lineEnables.getLsbD n = true
          ∧ (line.toNat = n ∨ ∃ e ∈ s.events.records, e.line.toNat = n)) ∧
    (32 ≤ s.events.records.length →
      s.offer k ring line p c = { s with events := { s.events with lost := true, markerPending := true } })) ∧
  (∀ (s : State) (r : RingNo) (k : EventKind) (p : Option Nat) (c : EventCount),
    s.raise r k p c = if (s.ring r).active.kindMask.getLsbD (k.code - 1) then
      s.offer k (some r) (s.ring r).active.eventLine p c else s) ∧
  ∀ (s : State) (r : RingNo),
    let x := s.ring r
    let level := distance x.A x.D x.F
    (x.side = .low → x.active.highMark.toNat ≤ level →
      s.evaluateLevel r = (s.setRing r { x with side := .high }).raise r .filled (some x.F) .absent) ∧
    (x.side = .high → level ≤ x.active.lowMark.toNat →
      s.evaluateLevel r = (s.setRing r { x with side := .low }).raise r .drained (some x.D) .absent) ∧
    (x.SideAgrees → s.evaluateLevel r = s) ∧
    (x.active.lowMark.toNat < x.active.highMark.toNat → ((s.evaluateLevel r).ring r).SideAgrees)

/-- R96, R97: a release scan makes RELEASED each WAITING entry of the ring, of a reason that it examines, whose range's end
is not beyond F (an underrun read) or not beyond D + C (a write for room), appends their slots at the tail of the
released list in the order of the hold list, and changes nothing else. -/
def Obligations.ReleaseScanReleasesRipeEntries : Prop :=
  ∀ (s : State) (r : RingNo) (examines : HoldReason → Bool),
    let ring := s.ring r
    let ripe := fun h : HoldEntry => h.ring = r ∧ h.state = .waiting ∧ examines h.reason = true ∧
      ∃ x e, s.txn h.transaction = some x ∧ x.range = some e ∧
        (h.reason = .underrun → ¬ IsBeyond ring.A ring.F e.stop) ∧
        (h.reason = .room → ¬ IsBeyond ring.A (positionAfter ring.A ring.D ring.C) e.stop)
    ∃ freed : List HoldEntry,
      freed.Sublist s.pool.entries ∧ (∀ h, h ∈ freed ↔ h ∈ s.pool.entries ∧ ripe h)
      ∧ (∀ h, ripe h → freed.count h = s.pool.entries.count h)
      ∧ s.releaseScan r examines = { s with pool := { s.pool with
          entries := s.pool.entries.map fun h => if h ∈ freed then { h with state := .released } else h
          released := s.pool.released ++ freed.map HoldEntry.slot } }

/-! ## The part reset -/

/-- R171, R42: RESET_PART while RUNNING makes the part RESETTING and takes the rings in ascending order: a ring in ACTIVE,
DRAINING, PAUSED or HALTED is treated as having taken CLEAR (its held requests answered, the ring CLEARING, or OFF with
nothing of it queued or live), a ring in OFF or CLEARING is untouched; the completion test follows. Memory operations,
counts and the timebase are as before. While RESETTING it is ignored and sets no flag. -/
def Obligations.ResetPartClearsRings : Prop :=
  (∀ s : State, s.inReset = false → s.part = .resetting → exec .resetPart s = .next (s.acknowledge 0x008)) ∧
  ∀ s : State, s.inReset = false → s.part = .running → (∀ h ∈ s.pool.entries, s.txn h.transaction ≠ none) →
    let taken : RingNo → Bool := fun r => decide ((s.ring r).state ≠ .off ∧ (s.ring r).state ≠ .clearing)
    let left := fun r : RingNo =>
      (∃ o ∈ s.mem.queue, s.ringOf o.transaction = some r)
        ∨ ∃ o ∈ s.mem.outstanding, o.condition = .live ∧ s.ringOf o.transaction = some r
    ∃ c : State, c = { s with part := .resetting, rings := c.rings, pool := c.pool, sys := c.sys, events := c.events }
      ∧ (∀ r, taken r = false → c.ring r = s.ring r)
      ∧ (∀ r, taken r = true → left r →
          c.ring r = { s.ring r with state := .clearing, outcome := .accepted })
      ∧ (∀ r, taken r = true → ¬ left r → c.ring r = { s.ring r with
          state := .off, outcome := .accepted
          fill := [], drain := [], poison := []
          discardCount := 0, overtakeCount := 0, lateCount := 0
          active := if (s.ring r).pending then (s.ring r).shadow else (s.ring r).active
          pending := false })
      ∧ c.pool.entries = s.pool.entries.filter (fun h => ! taken h.ring)
      ∧ c.sys.readyOrder = s.sys.readyOrder ++ (List.finRange 16).flatMap (fun r =>
          if taken r then (s.pool.entries.filter fun h => h.ring = r).map HoldEntry.transaction else [])
      ∧ c.sys.undelivered = s.sys.undelivered ∧ c.sys.link = s.sys.link
      ∧ exec .resetPart s = .next (c.testResetCompletion.acknowledge 0x008)

/-- R172, R42, R134: the completion test. With the transaction table empty, the issue queue empty and no live operation
(orphans do not count), a RESETTING part becomes RUNNING, every ring's structural and live fields, pending flag,
command status and counters take their reset values and its frontiers, side, snapshot and state stay, and the event
queue is emptied with its lines down; the timebase, the settings, the flags, the pointer and the orphans stay. Otherwise
nothing changes. -/
def Obligations.PartResetCompletes : Prop :=
  ∀ s : State, s.inReset = false →
    exec .partResetCompletion s = .next s.testResetCompletion ∧
    let ready := s.part = .resetting ∧ (∀ u, s.txn u = none) ∧ s.mem.queue = []
      ∧ ∀ o ∈ s.mem.outstanding, o.condition = .orphan
    (¬ ready → exec .partResetCompletion s = .next s) ∧
    (ready → ∃ t, exec .partResetCompletion s = .next t
      ∧ t = { s with part := .running, rings := t.rings, events := t.events }
      ∧ (∀ r, t.ring r = { s.ring r with
          structural :=
            { apertureBase := 0, apertureExponent := 0, memoryBase := 0, capacityExponent := 0, startOffset := 0 }
          active :=
            { producerMask := 0, consumerMask := 0, observerMask := 0, overrun := .block, underrun := .wait
              highMark := 0, lowMark := 0, holdTimeout := 0, holdQuota := 0, eventLine := 0, kindMask := 0xFF }
          shadow :=
            { producerMask := 0, consumerMask := 0, observerMask := 0, overrun := .block, underrun := .wait
              highMark := 0, lowMark := 0, holdTimeout := 0, holdQuota := 0, eventLine := 0, kindMask := 0xFF }
          pending := false, outcome := .accepted
          discardCount := 0, overtakeCount := 0, lateCount := 0 })
      ∧ t.events = { records := [], nextSequence := 0, lost := false, markerPending := false, lines := 0 })

/-! ## What every step keeps -/

/-- The invariants below hold right after a hardware reset. -/
def Obligations.InvariantsHoldAtReset : Prop :=
  (State.reset.LinesAgree ∧ State.reset.events.WellFormed ∧ State.reset.PointerAligned)
  ∧ (State.reset.mem.Safe ∧ State.reset.QueueFits)
  ∧ (State.reset.RingsBounded ∧ State.reset.DrainNeverVoid)
  ∧ (State.reset.pool.WellFormed ∧ State.reset.HeldOnlyActive)
  ∧ State.reset.CountsAgree
  ∧ (State.reset.AddressLaw ∧ State.reset.ClearingIsBusy)
  ∧ State.reset.Sound

/-- R126, R130, R163: every step keeps the event records at most 32 and consecutively numbered, the event lines as their
rule gives them, and the register pointer aligned. -/
def Obligations.EventsAndPointerStayWellFormed : Prop :=
  ∀ s t : State, s.LinesAgree ∧ s.events.WellFormed ∧ s.PointerAligned → step s = .next t →
    t.LinesAgree ∧ t.events.WellFormed ∧ t.PointerAligned

/-- R152 to R156: every step keeps the ids in use distinct and no two live operations overlapping where one is a write,
and the issue queue's occupied and reserved entries at most 16. -/
def Obligations.MemoryPortStaysSafe : Prop :=
  ∀ s t : State, s.mem.Safe ∧ s.QueueFits → step s = .next t → t.mem.Safe ∧ t.QueueFits

/-- R43, R71, R111: every step keeps the scoreboards at most 12 entries, the poison lists at most 4, and no drain entry
VOID. -/
def Obligations.RingsStayBounded : Prop :=
  ∀ s t : State, s.RingsBounded ∧ s.DrainNeverVoid → step s = .next t → t.RingsBounded ∧ t.DrainNeverVoid

/-- R91, R93: every step keeps one entry to a slot, the released list the RELEASED entries each once, and every held
entry in a ring that is ACTIVE. -/
def Obligations.HoldPoolStaysWellFormed : Prop :=
  ∀ s t : State, s.pool.WellFormed ∧ s.HeldOnlyActive → step s = .next t →
    t.pool.WellFormed ∧ t.HeldOnlyActive

/-- R144, R147: every step keeps each master's undelivered count the number of the entries that hold its requests, and at
most 16. -/
def Obligations.UndeliveredCountsAgree : Prop :=
  ∀ s t : State, s.CountsAgree → step s = .next t → t.CountsAgree

/-- R26: while the part is RUNNING, every step keeps the address law: no two rings not OFF have apertures or memory spans
that meet, and no such span meets an aperture. (The premise that a CLEARING ring has an operation outstanding rules out
states that no run reaches, in which a part reset would complete under a ring that is not OFF.) -/
def Obligations.AddressLawIsKept : Prop :=
  ∀ s t : State, s.part = .running → s.ClearingIsBusy → s.AddressLaw → step s = .next t → t.AddressLaw
end

