-- ==== Sys2Proof/Laws/State.lean ====
section
/-! SUPPORT. One lemma per field for each named update of State, and what a place of the ring file, of the transaction
table and of the undelivered counts reads after an update: no later proof unfolds a record update. -/

namespace Sys2Proof.Machine

variable (s : State)

/-! ## One ring -/

@[simp] theorem State.setRing_inReset (r : RingNo) (x : Ring) : (s.setRing r x).inReset = s.inReset := rfl
@[simp] theorem State.setRing_part (r : RingNo) (x : Ring) : (s.setRing r x).part = s.part := rfl
@[simp] theorem State.setRing_mgmt (r : RingNo) (x : Ring) : (s.setRing r x).mgmt = s.mgmt := rfl
@[simp] theorem State.setRing_time (r : RingNo) (x : Ring) : (s.setRing r x).time = s.time := rfl
@[simp] theorem State.setRing_awaiting (r : RingNo) (x : Ring) : (s.setRing r x).awaiting = s.awaiting := rfl
@[simp] theorem State.setRing_pool (r : RingNo) (x : Ring) : (s.setRing r x).pool = s.pool := rfl
@[simp] theorem State.setRing_sys (r : RingNo) (x : Ring) : (s.setRing r x).sys = s.sys := rfl
@[simp] theorem State.setRing_mem (r : RingNo) (x : Ring) : (s.setRing r x).mem = s.mem := rfl
@[simp] theorem State.setRing_events (r : RingNo) (x : Ring) : (s.setRing r x).events = s.events := rfl
@[simp] theorem State.setRing_freeCount (r : RingNo) (x : Ring) : (s.setRing r x).freeCount = s.freeCount := rfl
@[simp] theorem State.setRing_pending (r : RingNo) (x : Ring) : (s.setRing r x).pending = s.pending := rfl

@[simp] theorem State.ring_setRing_self (r : RingNo) (x : Ring) : (s.setRing r x).ring r = x := by
  simp [State.ring, State.setRing]

theorem State.ring_setRing_ne {r q : RingNo} (h : q ≠ r) (x : Ring) : (s.setRing r x).ring q = s.ring q := by
  have : r.val ≠ q.val := fun e => h (Fin.ext e.symm)
  simp [State.ring, State.setRing, Vector.getElem_set_ne, this]

theorem State.ring_setRing (r q : RingNo) (x : Ring) :
    (s.setRing r x).ring q = if q = r then x else s.ring q := by
  by_cases h : q = r
  · subst h; simp
  · simp [h, State.ring_setRing_ne]

@[simp] theorem State.setRing_setRing (r : RingNo) (x y : Ring) : (s.setRing r x).setRing r y = s.setRing r y := by
  simp [State.setRing]

@[simp] theorem State.txn_setRing (r : RingNo) (x : Ring) (t : TxnNo) : (s.setRing r x).txn t = s.txn t := rfl

@[simp] theorem State.setRing_ring (r : RingNo) : s.setRing r (s.ring r) = s := by
  simp [State.setRing, State.ring]

/-! ## One transaction entry -/

@[simp] theorem State.setTxn_inReset (t : TxnNo) (x : Option Txn) : (s.setTxn t x).inReset = s.inReset := rfl
@[simp] theorem State.setTxn_part (t : TxnNo) (x : Option Txn) : (s.setTxn t x).part = s.part := rfl
@[simp] theorem State.setTxn_mgmt (t : TxnNo) (x : Option Txn) : (s.setTxn t x).mgmt = s.mgmt := rfl
@[simp] theorem State.setTxn_time (t : TxnNo) (x : Option Txn) : (s.setTxn t x).time = s.time := rfl
@[simp] theorem State.setTxn_rings (t : TxnNo) (x : Option Txn) : (s.setTxn t x).rings = s.rings := rfl
@[simp] theorem State.setTxn_awaiting (t : TxnNo) (x : Option Txn) : (s.setTxn t x).awaiting = s.awaiting := rfl
@[simp] theorem State.setTxn_pool (t : TxnNo) (x : Option Txn) : (s.setTxn t x).pool = s.pool := rfl
@[simp] theorem State.setTxn_mem (t : TxnNo) (x : Option Txn) : (s.setTxn t x).mem = s.mem := rfl
@[simp] theorem State.setTxn_events (t : TxnNo) (x : Option Txn) : (s.setTxn t x).events = s.events := rfl
@[simp] theorem State.setTxn_freeCount (t : TxnNo) (x : Option Txn) : (s.setTxn t x).freeCount = s.freeCount := rfl
@[simp] theorem State.setTxn_pending (t : TxnNo) (x : Option Txn) : (s.setTxn t x).pending = s.pending := rfl

@[simp] theorem State.setTxn_undelivered (t : TxnNo) (x : Option Txn) :
    (s.setTxn t x).sys.undelivered = s.sys.undelivered := rfl
@[simp] theorem State.setTxn_readyOrder (t : TxnNo) (x : Option Txn) :
    (s.setTxn t x).sys.readyOrder = s.sys.readyOrder := rfl
@[simp] theorem State.setTxn_link (t : TxnNo) (x : Option Txn) : (s.setTxn t x).sys.link = s.sys.link := rfl

@[simp] theorem State.txn_setTxn_self (t : TxnNo) (x : Option Txn) : (s.setTxn t x).txn t = x := by
  simp [State.txn, State.setTxn]

theorem State.txn_setTxn_ne {t u : TxnNo} (h : u ≠ t) (x : Option Txn) : (s.setTxn t x).txn u = s.txn u := by
  have : t.val ≠ u.val := fun e => h (Fin.ext e.symm)
  simp [State.txn, State.setTxn, Vector.getElem_set_ne, this]

theorem State.txn_setTxn (t u : TxnNo) (x : Option Txn) :
    (s.setTxn t x).txn u = if u = t then x else s.txn u := by
  by_cases h : u = t
  · subst h; simp
  · simp [h, State.txn_setTxn_ne]

@[simp] theorem State.setTxn_setTxn (t : TxnNo) (x y : Option Txn) :
    (s.setTxn t x).setTxn t y = s.setTxn t y := by
  simp [State.setTxn]

@[simp] theorem State.ring_setTxn (t : TxnNo) (x : Option Txn) (r : RingNo) :
    (s.setTxn t x).ring r = s.ring r := rfl

/-! ## One undelivered count -/

@[simp] theorem State.setUndelivered_inReset (m : MasterNo) (n : Nat) : (s.setUndelivered m n).inReset = s.inReset := rfl
@[simp] theorem State.setUndelivered_part (m : MasterNo) (n : Nat) : (s.setUndelivered m n).part = s.part := rfl
@[simp] theorem State.setUndelivered_mgmt (m : MasterNo) (n : Nat) : (s.setUndelivered m n).mgmt = s.mgmt := rfl
@[simp] theorem State.setUndelivered_time (m : MasterNo) (n : Nat) : (s.setUndelivered m n).time = s.time := rfl
@[simp] theorem State.setUndelivered_rings (m : MasterNo) (n : Nat) : (s.setUndelivered m n).rings = s.rings := rfl
@[simp] theorem State.setUndelivered_awaiting (m : MasterNo) (n : Nat) : (s.setUndelivered m n).awaiting = s.awaiting := rfl
@[simp] theorem State.setUndelivered_pool (m : MasterNo) (n : Nat) : (s.setUndelivered m n).pool = s.pool := rfl
@[simp] theorem State.setUndelivered_mem (m : MasterNo) (n : Nat) : (s.setUndelivered m n).mem = s.mem := rfl
@[simp] theorem State.setUndelivered_events (m : MasterNo) (n : Nat) : (s.setUndelivered m n).events = s.events := rfl
@[simp] theorem State.setUndelivered_freeCount (m : MasterNo) (n : Nat) : (s.setUndelivered m n).freeCount = s.freeCount := rfl
@[simp] theorem State.setUndelivered_pending (m : MasterNo) (n : Nat) : (s.setUndelivered m n).pending = s.pending := rfl

@[simp] theorem State.setUndelivered_table (m : MasterNo) (n : Nat) :
    (s.setUndelivered m n).sys.table = s.sys.table := rfl
@[simp] theorem State.setUndelivered_readyOrder (m : MasterNo) (n : Nat) :
    (s.setUndelivered m n).sys.readyOrder = s.sys.readyOrder := rfl
@[simp] theorem State.setUndelivered_link (m : MasterNo) (n : Nat) :
    (s.setUndelivered m n).sys.link = s.sys.link := rfl
@[simp] theorem State.txn_setUndelivered (m : MasterNo) (n : Nat) (t : TxnNo) :
    (s.setUndelivered m n).txn t = s.txn t := rfl
@[simp] theorem State.ring_setUndelivered (m : MasterNo) (n : Nat) (r : RingNo) :
    (s.setUndelivered m n).ring r = s.ring r := rfl

theorem State.undelivered_setUndelivered (m k : MasterNo) (n : Nat) :
    (s.setUndelivered m n).sys.undelivered[k.val] = if k = m then n else s.sys.undelivered[k.val] := by
  by_cases h : k = m
  · subst h; simp [State.setUndelivered]
  · have : m.val ≠ k.val := fun e => h (Fin.ext e.symm)
    simp [State.setUndelivered, Vector.getElem_set_ne, this, h]

/-! ## The error flags -/

@[simp] theorem State.setFlags_inReset (f : ErrorFlags) : (s.setFlags f).inReset = s.inReset := rfl
@[simp] theorem State.setFlags_part (f : ErrorFlags) : (s.setFlags f).part = s.part := rfl
@[simp] theorem State.setFlags_time (f : ErrorFlags) : (s.setFlags f).time = s.time := rfl
@[simp] theorem State.setFlags_rings (f : ErrorFlags) : (s.setFlags f).rings = s.rings := rfl
@[simp] theorem State.setFlags_awaiting (f : ErrorFlags) : (s.setFlags f).awaiting = s.awaiting := rfl
@[simp] theorem State.setFlags_pool (f : ErrorFlags) : (s.setFlags f).pool = s.pool := rfl
@[simp] theorem State.setFlags_sys (f : ErrorFlags) : (s.setFlags f).sys = s.sys := rfl
@[simp] theorem State.setFlags_mem (f : ErrorFlags) : (s.setFlags f).mem = s.mem := rfl
@[simp] theorem State.setFlags_events (f : ErrorFlags) : (s.setFlags f).events = s.events := rfl
@[simp] theorem State.setFlags_freeCount (f : ErrorFlags) : (s.setFlags f).freeCount = s.freeCount := rfl
@[simp] theorem State.setFlags_pending (f : ErrorFlags) : (s.setFlags f).pending = s.pending := rfl

@[simp] theorem State.setFlags_flags (f : ErrorFlags) : (s.setFlags f).mgmt.flags = f := rfl
@[simp] theorem State.setFlags_lineEnables (f : ErrorFlags) :
    (s.setFlags f).mgmt.lineEnables = s.mgmt.lineEnables := rfl
@[simp] theorem State.ring_setFlags (f : ErrorFlags) (r : RingNo) : (s.setFlags f).ring r = s.ring r := rfl
@[simp] theorem State.txn_setFlags (f : ErrorFlags) (t : TxnNo) : (s.setFlags f).txn t = s.txn t := rfl

/-! ## The event lines -/

@[simp] theorem State.refreshLines_inReset  : (s.refreshLines).inReset = s.inReset := rfl
@[simp] theorem State.refreshLines_part  : (s.refreshLines).part = s.part := rfl
@[simp] theorem State.refreshLines_mgmt  : (s.refreshLines).mgmt = s.mgmt := rfl
@[simp] theorem State.refreshLines_time  : (s.refreshLines).time = s.time := rfl
@[simp] theorem State.refreshLines_rings  : (s.refreshLines).rings = s.rings := rfl
@[simp] theorem State.refreshLines_awaiting  : (s.refreshLines).awaiting = s.awaiting := rfl
@[simp] theorem State.refreshLines_pool  : (s.refreshLines).pool = s.pool := rfl
@[simp] theorem State.refreshLines_sys  : (s.refreshLines).sys = s.sys := rfl
@[simp] theorem State.refreshLines_mem  : (s.refreshLines).mem = s.mem := rfl
@[simp] theorem State.refreshLines_freeCount  : (s.refreshLines).freeCount = s.freeCount := rfl
@[simp] theorem State.refreshLines_pending  : (s.refreshLines).pending = s.pending := rfl

@[simp] theorem State.refreshLines_lines :
    s.refreshLines.events.lines = lineLevels s.events.records s.mgmt.lineEnables := rfl
@[simp] theorem State.refreshLines_records : s.refreshLines.events.records = s.events.records := rfl
@[simp] theorem State.refreshLines_nextSequence :
    s.refreshLines.events.nextSequence = s.events.nextSequence := rfl
@[simp] theorem State.refreshLines_lost : s.refreshLines.events.lost = s.events.lost := rfl
@[simp] theorem State.refreshLines_markerPending :
    s.refreshLines.events.markerPending = s.events.markerPending := rfl
@[simp] theorem State.ring_refreshLines (r : RingNo) : s.refreshLines.ring r = s.ring r := rfl
@[simp] theorem State.txn_refreshLines (t : TxnNo) : s.refreshLines.txn t = s.txn t := rfl

/-! ## The answer on the bus -/

@[simp] theorem State.acknowledge_inReset (p : BitVec 16) : (s.acknowledge p).inReset = s.inReset := rfl
@[simp] theorem State.acknowledge_part (p : BitVec 16) : (s.acknowledge p).part = s.part := rfl
@[simp] theorem State.acknowledge_time (p : BitVec 16) : (s.acknowledge p).time = s.time := rfl
@[simp] theorem State.acknowledge_rings (p : BitVec 16) : (s.acknowledge p).rings = s.rings := rfl
@[simp] theorem State.acknowledge_awaiting (p : BitVec 16) : (s.acknowledge p).awaiting = s.awaiting := rfl
@[simp] theorem State.acknowledge_pool (p : BitVec 16) : (s.acknowledge p).pool = s.pool := rfl
@[simp] theorem State.acknowledge_sys (p : BitVec 16) : (s.acknowledge p).sys = s.sys := rfl
@[simp] theorem State.acknowledge_mem (p : BitVec 16) : (s.acknowledge p).mem = s.mem := rfl
@[simp] theorem State.acknowledge_events (p : BitVec 16) : (s.acknowledge p).events = s.events := rfl
@[simp] theorem State.acknowledge_freeCount (p : BitVec 16) : (s.acknowledge p).freeCount = s.freeCount := rfl
@[simp] theorem State.acknowledge_pending (p : BitVec 16) : (s.acknowledge p).pending = s.pending := rfl

@[simp] theorem State.acknowledge_mgmt (p : BitVec 16) :
    (s.acknowledge p).mgmt = { s.mgmt with acknowledged := true, pointer := p } := rfl
@[simp] theorem State.ring_acknowledge (p : BitVec 16) (r : RingNo) : (s.acknowledge p).ring r = s.ring r := rfl
@[simp] theorem State.txn_acknowledge (p : BitVec 16) (t : TxnNo) : (s.acknowledge p).txn t = s.txn t := rfl


@[simp] theorem State.ignoreBus_inReset  : (s.ignoreBus).inReset = s.inReset := rfl
@[simp] theorem State.ignoreBus_part  : (s.ignoreBus).part = s.part := rfl
@[simp] theorem State.ignoreBus_time  : (s.ignoreBus).time = s.time := rfl
@[simp] theorem State.ignoreBus_rings  : (s.ignoreBus).rings = s.rings := rfl
@[simp] theorem State.ignoreBus_awaiting  : (s.ignoreBus).awaiting = s.awaiting := rfl
@[simp] theorem State.ignoreBus_pool  : (s.ignoreBus).pool = s.pool := rfl
@[simp] theorem State.ignoreBus_sys  : (s.ignoreBus).sys = s.sys := rfl
@[simp] theorem State.ignoreBus_mem  : (s.ignoreBus).mem = s.mem := rfl
@[simp] theorem State.ignoreBus_events  : (s.ignoreBus).events = s.events := rfl
@[simp] theorem State.ignoreBus_freeCount  : (s.ignoreBus).freeCount = s.freeCount := rfl
@[simp] theorem State.ignoreBus_pending  : (s.ignoreBus).pending = s.pending := rfl

@[simp] theorem State.ignoreBus_mgmt : s.ignoreBus.mgmt = { s.mgmt with acknowledged := false } := rfl
@[simp] theorem State.ring_ignoreBus (r : RingNo) : s.ignoreBus.ring r = s.ring r := rfl
@[simp] theorem State.txn_ignoreBus (t : TxnNo) : s.ignoreBus.txn t = s.txn t := rfl

/-! ## Operations of the memory port -/

@[simp] theorem State.freeOperation_inReset (id : OpId) : (s.freeOperation id).inReset = s.inReset := rfl
@[simp] theorem State.freeOperation_part (id : OpId) : (s.freeOperation id).part = s.part := rfl
@[simp] theorem State.freeOperation_mgmt (id : OpId) : (s.freeOperation id).mgmt = s.mgmt := rfl
@[simp] theorem State.freeOperation_time (id : OpId) : (s.freeOperation id).time = s.time := rfl
@[simp] theorem State.freeOperation_rings (id : OpId) : (s.freeOperation id).rings = s.rings := rfl
@[simp] theorem State.freeOperation_awaiting (id : OpId) : (s.freeOperation id).awaiting = s.awaiting := rfl
@[simp] theorem State.freeOperation_pool (id : OpId) : (s.freeOperation id).pool = s.pool := rfl
@[simp] theorem State.freeOperation_sys (id : OpId) : (s.freeOperation id).sys = s.sys := rfl
@[simp] theorem State.freeOperation_events (id : OpId) : (s.freeOperation id).events = s.events := rfl
@[simp] theorem State.freeOperation_freeCount (id : OpId) : (s.freeOperation id).freeCount = s.freeCount := rfl
@[simp] theorem State.freeOperation_pending (id : OpId) : (s.freeOperation id).pending = s.pending := rfl

@[simp] theorem State.freeOperation_queue (id : OpId) : (s.freeOperation id).mem.queue = s.mem.queue := rfl
@[simp] theorem State.freeOperation_link (id : OpId) : (s.freeOperation id).mem.link = s.mem.link := rfl
@[simp] theorem State.freeOperation_outstanding (id : OpId) :
    (s.freeOperation id).mem.outstanding = s.mem.outstanding.filter fun o => o.id ≠ id := rfl
@[simp] theorem State.ring_freeOperation (id : OpId) (r : RingNo) : (s.freeOperation id).ring r = s.ring r := rfl
@[simp] theorem State.txn_freeOperation (id : OpId) (t : TxnNo) : (s.freeOperation id).txn t = s.txn t := rfl

@[simp] theorem State.orphan_inReset (id : OpId) : (s.orphan id).inReset = s.inReset := rfl
@[simp] theorem State.orphan_part (id : OpId) : (s.orphan id).part = s.part := rfl
@[simp] theorem State.orphan_mgmt (id : OpId) : (s.orphan id).mgmt = s.mgmt := rfl
@[simp] theorem State.orphan_time (id : OpId) : (s.orphan id).time = s.time := rfl
@[simp] theorem State.orphan_rings (id : OpId) : (s.orphan id).rings = s.rings := rfl
@[simp] theorem State.orphan_awaiting (id : OpId) : (s.orphan id).awaiting = s.awaiting := rfl
@[simp] theorem State.orphan_pool (id : OpId) : (s.orphan id).pool = s.pool := rfl
@[simp] theorem State.orphan_sys (id : OpId) : (s.orphan id).sys = s.sys := rfl
@[simp] theorem State.orphan_events (id : OpId) : (s.orphan id).events = s.events := rfl
@[simp] theorem State.orphan_freeCount (id : OpId) : (s.orphan id).freeCount = s.freeCount := rfl
@[simp] theorem State.orphan_pending (id : OpId) : (s.orphan id).pending = s.pending := rfl
@[simp] theorem State.orphan_queue (id : OpId) : (s.orphan id).mem.queue = s.mem.queue := rfl
@[simp] theorem State.orphan_link (id : OpId) : (s.orphan id).mem.link = s.mem.link := rfl
@[simp] theorem State.ring_orphan (id : OpId) (r : RingNo) : (s.orphan id).ring r = s.ring r := rfl
@[simp] theorem State.txn_orphan (id : OpId) (t : TxnNo) : (s.orphan id).txn t = s.txn t := rfl

/-! ## The places of a vector -/

theorem mapPlaces_get {α : Type} {n : Nat} (f : α → α) (v : Vector α n) (i : Nat) (h : i < n) :
    (mapPlaces f v)[i] = f v[i] := by
  simp [mapPlaces, Vector.getElem_mk]

theorem mapPlaces_toList {α : Type} {n : Nat} (f : α → α) (v : Vector α n) :
    (mapPlaces f v).toList = v.toList.map f := by
  simp [mapPlaces]

/-! ## Folds over the state -/

/-- What every step of a fold leaves unchanged, the fold leaves unchanged. -/
theorem foldl_unchanged {α β : Type} (g : State → α → State) (p : State → β)
    (h : ∀ s a, p (g s a) = p s) (l : List α) (s : State) : p (l.foldl g s) = p s := by
  induction l generalizing s with
  | nil => rfl
  | cons a l ih => simp [List.foldl_cons, ih, h]

/-- What holds at the start of a fold and is kept by every step over the list's members holds at its end. -/
theorem foldl_keeps {α : Type} (g : State → α → State) (P : State → Prop) (l : List α)
    (h : ∀ s, ∀ a ∈ l, P s → P (g s a)) (s : State) (hs : P s) : P (l.foldl g s) := by
  induction l generalizing s with
  | nil => exact hs
  | cons a l ih =>
    exact ih (fun s b hb => h s b (List.mem_cons_of_mem _ hb)) _ (h s a List.mem_cons_self hs)

end Sys2Proof.Machine
end

