-- ==== Sys2Proof/Laws/Frame.lean ====
section
/-! SUPPORT. What each shared operation and each block's event leaves unchanged: one lemma per field of State that the
operation does not touch. -/

namespace Sys2Proof.Machine

variable (s : State)

theorem State.ring_congr {s t : State} (h : s.rings = t.rings) (r : RingNo) : s.ring r = t.ring r := by
  simp [State.ring, h]

theorem State.txn_congr {s t : State} (h : s.sys = t.sys) (u : TxnNo) : s.txn u = t.txn u := by
  simp [State.txn, h]

/-! ## offer -/

section
variable (k : EventKind) (o : Option RingNo) (l : BitVec 2) (p : Option Nat) (c : EventCount)

@[simp] theorem State.offer_inReset : (s.offer k o l p c).inReset = s.inReset := by
  unfold State.offer; (repeat' split) <;> simp
@[simp] theorem State.offer_part : (s.offer k o l p c).part = s.part := by
  unfold State.offer; (repeat' split) <;> simp
@[simp] theorem State.offer_mgmt : (s.offer k o l p c).mgmt = s.mgmt := by
  unfold State.offer; (repeat' split) <;> simp
@[simp] theorem State.offer_time : (s.offer k o l p c).time = s.time := by
  unfold State.offer; (repeat' split) <;> simp
@[simp] theorem State.offer_rings : (s.offer k o l p c).rings = s.rings := by
  unfold State.offer; (repeat' split) <;> simp
@[simp] theorem State.offer_awaiting : (s.offer k o l p c).awaiting = s.awaiting := by
  unfold State.offer; (repeat' split) <;> simp
@[simp] theorem State.offer_pool : (s.offer k o l p c).pool = s.pool := by
  unfold State.offer; (repeat' split) <;> simp
@[simp] theorem State.offer_sys : (s.offer k o l p c).sys = s.sys := by
  unfold State.offer; (repeat' split) <;> simp
@[simp] theorem State.offer_mem : (s.offer k o l p c).mem = s.mem := by
  unfold State.offer; (repeat' split) <;> simp
@[simp] theorem State.offer_freeCount : (s.offer k o l p c).freeCount = s.freeCount := by
  unfold State.offer; (repeat' split) <;> simp
@[simp] theorem State.offer_pending : (s.offer k o l p c).pending = s.pending := by
  unfold State.offer; (repeat' split) <;> simp
@[simp] theorem State.ring_offer (ring : RingNo) : (s.offer k o l p c).ring ring = s.ring ring :=
  State.ring_congr (State.offer_rings s k o l p c) ring
@[simp] theorem State.txn_offer (txn : TxnNo) : (s.offer k o l p c).txn txn = s.txn txn :=
  State.txn_congr (State.offer_sys s k o l p c) txn
end

/-! ## raise -/

section
variable (r : RingNo) (k : EventKind) (p : Option Nat) (c : EventCount)

@[simp] theorem State.raise_inReset : (s.raise r k p c).inReset = s.inReset := by
  unfold State.raise; (repeat' split) <;> simp
@[simp] theorem State.raise_part : (s.raise r k p c).part = s.part := by
  unfold State.raise; (repeat' split) <;> simp
@[simp] theorem State.raise_mgmt : (s.raise r k p c).mgmt = s.mgmt := by
  unfold State.raise; (repeat' split) <;> simp
@[simp] theorem State.raise_time : (s.raise r k p c).time = s.time := by
  unfold State.raise; (repeat' split) <;> simp
@[simp] theorem State.raise_rings : (s.raise r k p c).rings = s.rings := by
  unfold State.raise; (repeat' split) <;> simp
@[simp] theorem State.raise_awaiting : (s.raise r k p c).awaiting = s.awaiting := by
  unfold State.raise; (repeat' split) <;> simp
@[simp] theorem State.raise_pool : (s.raise r k p c).pool = s.pool := by
  unfold State.raise; (repeat' split) <;> simp
@[simp] theorem State.raise_sys : (s.raise r k p c).sys = s.sys := by
  unfold State.raise; (repeat' split) <;> simp
@[simp] theorem State.raise_mem : (s.raise r k p c).mem = s.mem := by
  unfold State.raise; (repeat' split) <;> simp
@[simp] theorem State.raise_freeCount : (s.raise r k p c).freeCount = s.freeCount := by
  unfold State.raise; (repeat' split) <;> simp
@[simp] theorem State.raise_pending : (s.raise r k p c).pending = s.pending := by
  unfold State.raise; (repeat' split) <;> simp
@[simp] theorem State.ring_raise (ring : RingNo) : (s.raise r k p c).ring ring = s.ring ring :=
  State.ring_congr (State.raise_rings s r k p c) ring
@[simp] theorem State.txn_raise (txn : TxnNo) : (s.raise r k p c).txn txn = s.txn txn :=
  State.txn_congr (State.raise_sys s r k p c) txn
end

/-! ## evaluateLevel -/

section
variable (r : RingNo)

@[simp] theorem State.evaluateLevel_inReset : (s.evaluateLevel r).inReset = s.inReset := by
  unfold State.evaluateLevel; dsimp only; (repeat' split) <;> simp
@[simp] theorem State.evaluateLevel_part : (s.evaluateLevel r).part = s.part := by
  unfold State.evaluateLevel; dsimp only; (repeat' split) <;> simp
@[simp] theorem State.evaluateLevel_mgmt : (s.evaluateLevel r).mgmt = s.mgmt := by
  unfold State.evaluateLevel; dsimp only; (repeat' split) <;> simp
@[simp] theorem State.evaluateLevel_time : (s.evaluateLevel r).time = s.time := by
  unfold State.evaluateLevel; dsimp only; (repeat' split) <;> simp
@[simp] theorem State.evaluateLevel_awaiting : (s.evaluateLevel r).awaiting = s.awaiting := by
  unfold State.evaluateLevel; dsimp only; (repeat' split) <;> simp
@[simp] theorem State.evaluateLevel_pool : (s.evaluateLevel r).pool = s.pool := by
  unfold State.evaluateLevel; dsimp only; (repeat' split) <;> simp
@[simp] theorem State.evaluateLevel_sys : (s.evaluateLevel r).sys = s.sys := by
  unfold State.evaluateLevel; dsimp only; (repeat' split) <;> simp
@[simp] theorem State.evaluateLevel_mem : (s.evaluateLevel r).mem = s.mem := by
  unfold State.evaluateLevel; dsimp only; (repeat' split) <;> simp
@[simp] theorem State.evaluateLevel_freeCount : (s.evaluateLevel r).freeCount = s.freeCount := by
  unfold State.evaluateLevel; dsimp only; (repeat' split) <;> simp
@[simp] theorem State.evaluateLevel_pending : (s.evaluateLevel r).pending = s.pending := by
  unfold State.evaluateLevel; dsimp only; (repeat' split) <;> simp
@[simp] theorem State.txn_evaluateLevel (txn : TxnNo) : (s.evaluateLevel r).txn txn = s.txn txn :=
  State.txn_congr (State.evaluateLevel_sys s r) txn
end

/-! ## popEvent -/

section
variable (v : Word)

@[simp] theorem State.popEvent_inReset : (s.popEvent v).inReset = s.inReset := by
  unfold State.popEvent; (repeat' split) <;> simp [State.setPopMismatchFlag]
@[simp] theorem State.popEvent_part : (s.popEvent v).part = s.part := by
  unfold State.popEvent; (repeat' split) <;> simp [State.setPopMismatchFlag]
@[simp] theorem State.popEvent_time : (s.popEvent v).time = s.time := by
  unfold State.popEvent; (repeat' split) <;> simp [State.setPopMismatchFlag]
@[simp] theorem State.popEvent_rings : (s.popEvent v).rings = s.rings := by
  unfold State.popEvent; (repeat' split) <;> simp [State.setPopMismatchFlag]
@[simp] theorem State.popEvent_awaiting : (s.popEvent v).awaiting = s.awaiting := by
  unfold State.popEvent; (repeat' split) <;> simp [State.setPopMismatchFlag]
@[simp] theorem State.popEvent_pool : (s.popEvent v).pool = s.pool := by
  unfold State.popEvent; (repeat' split) <;> simp [State.setPopMismatchFlag]
@[simp] theorem State.popEvent_sys : (s.popEvent v).sys = s.sys := by
  unfold State.popEvent; (repeat' split) <;> simp [State.setPopMismatchFlag]
@[simp] theorem State.popEvent_mem : (s.popEvent v).mem = s.mem := by
  unfold State.popEvent; (repeat' split) <;> simp [State.setPopMismatchFlag]
@[simp] theorem State.popEvent_freeCount : (s.popEvent v).freeCount = s.freeCount := by
  unfold State.popEvent; (repeat' split) <;> simp [State.setPopMismatchFlag]
@[simp] theorem State.popEvent_pending : (s.popEvent v).pending = s.pending := by
  unfold State.popEvent; (repeat' split) <;> simp [State.setPopMismatchFlag]
@[simp] theorem State.ring_popEvent (ring : RingNo) : (s.popEvent v).ring ring = s.ring ring :=
  State.ring_congr (State.popEvent_rings s v) ring
@[simp] theorem State.txn_popEvent (txn : TxnNo) : (s.popEvent v).txn txn = s.txn txn :=
  State.txn_congr (State.popEvent_sys s v) txn
end

/-! ## emptyEvents -/

section
@[simp] theorem State.emptyEvents_inReset : (s.emptyEvents).inReset = s.inReset := by
  unfold State.emptyEvents; simp
@[simp] theorem State.emptyEvents_part : (s.emptyEvents).part = s.part := by
  unfold State.emptyEvents; simp
@[simp] theorem State.emptyEvents_mgmt : (s.emptyEvents).mgmt = s.mgmt := by
  unfold State.emptyEvents; simp
@[simp] theorem State.emptyEvents_time : (s.emptyEvents).time = s.time := by
  unfold State.emptyEvents; simp
@[simp] theorem State.emptyEvents_rings : (s.emptyEvents).rings = s.rings := by
  unfold State.emptyEvents; simp
@[simp] theorem State.emptyEvents_awaiting : (s.emptyEvents).awaiting = s.awaiting := by
  unfold State.emptyEvents; simp
@[simp] theorem State.emptyEvents_pool : (s.emptyEvents).pool = s.pool := by
  unfold State.emptyEvents; simp
@[simp] theorem State.emptyEvents_sys : (s.emptyEvents).sys = s.sys := by
  unfold State.emptyEvents; simp
@[simp] theorem State.emptyEvents_mem : (s.emptyEvents).mem = s.mem := by
  unfold State.emptyEvents; simp
@[simp] theorem State.emptyEvents_freeCount : (s.emptyEvents).freeCount = s.freeCount := by
  unfold State.emptyEvents; simp
@[simp] theorem State.emptyEvents_pending : (s.emptyEvents).pending = s.pending := by
  unfold State.emptyEvents; simp
@[simp] theorem State.ring_emptyEvents (ring : RingNo) : (s.emptyEvents).ring ring = s.ring ring :=
  State.ring_congr (State.emptyEvents_rings s) ring
@[simp] theorem State.txn_emptyEvents (txn : TxnNo) : (s.emptyEvents).txn txn = s.txn txn :=
  State.txn_congr (State.emptyEvents_sys s) txn
end

/-! ## answer -/

section
variable (t : TxnNo) (a : Status) (d : List Byte)

@[simp] theorem State.answer_inReset : (s.answer t a d).inReset = s.inReset := by
  unfold State.answer; (repeat' split) <;> simp
@[simp] theorem State.answer_part : (s.answer t a d).part = s.part := by
  unfold State.answer; (repeat' split) <;> simp
@[simp] theorem State.answer_mgmt : (s.answer t a d).mgmt = s.mgmt := by
  unfold State.answer; (repeat' split) <;> simp
@[simp] theorem State.answer_time : (s.answer t a d).time = s.time := by
  unfold State.answer; (repeat' split) <;> simp
@[simp] theorem State.answer_rings : (s.answer t a d).rings = s.rings := by
  unfold State.answer; (repeat' split) <;> simp
@[simp] theorem State.answer_awaiting : (s.answer t a d).awaiting = s.awaiting := by
  unfold State.answer; (repeat' split) <;> simp
@[simp] theorem State.answer_pool : (s.answer t a d).pool = s.pool := by
  unfold State.answer; (repeat' split) <;> simp
@[simp] theorem State.answer_mem : (s.answer t a d).mem = s.mem := by
  unfold State.answer; (repeat' split) <;> simp
@[simp] theorem State.answer_events : (s.answer t a d).events = s.events := by
  unfold State.answer; (repeat' split) <;> simp
@[simp] theorem State.answer_freeCount : (s.answer t a d).freeCount = s.freeCount := by
  unfold State.answer; (repeat' split) <;> simp
@[simp] theorem State.answer_pending : (s.answer t a d).pending = s.pending := by
  unfold State.answer; (repeat' split) <;> simp
@[simp] theorem State.ring_answer (ring : RingNo) : (s.answer t a d).ring ring = s.ring ring :=
  State.ring_congr (State.answer_rings s t a d) ring
end

/-! ## countMissing -/

section
variable (n : Nat) (d : List Byte)

@[simp] theorem State.countMissing_inReset : (s.countMissing n d).inReset = s.inReset := by
  unfold State.countMissing; (repeat' split) <;> simp
@[simp] theorem State.countMissing_part : (s.countMissing n d).part = s.part := by
  unfold State.countMissing; (repeat' split) <;> simp
@[simp] theorem State.countMissing_mgmt : (s.countMissing n d).mgmt = s.mgmt := by
  unfold State.countMissing; (repeat' split) <;> simp
@[simp] theorem State.countMissing_time : (s.countMissing n d).time = s.time := by
  unfold State.countMissing; (repeat' split) <;> simp
@[simp] theorem State.countMissing_rings : (s.countMissing n d).rings = s.rings := by
  unfold State.countMissing; (repeat' split) <;> simp
@[simp] theorem State.countMissing_awaiting : (s.countMissing n d).awaiting = s.awaiting := by
  unfold State.countMissing; (repeat' split) <;> simp
@[simp] theorem State.countMissing_pool : (s.countMissing n d).pool = s.pool := by
  unfold State.countMissing; (repeat' split) <;> simp
@[simp] theorem State.countMissing_sys : (s.countMissing n d).sys = s.sys := by
  unfold State.countMissing; (repeat' split) <;> simp
@[simp] theorem State.countMissing_mem : (s.countMissing n d).mem = s.mem := by
  unfold State.countMissing; (repeat' split) <;> simp
@[simp] theorem State.countMissing_events : (s.countMissing n d).events = s.events := by
  unfold State.countMissing; (repeat' split) <;> simp
@[simp] theorem State.countMissing_pending : (s.countMissing n d).pending = s.pending := by
  unfold State.countMissing; (repeat' split) <;> simp
@[simp] theorem State.ring_countMissing (ring : RingNo) : (s.countMissing n d).ring ring = s.ring ring :=
  State.ring_congr (State.countMissing_rings s n d) ring
@[simp] theorem State.txn_countMissing (txn : TxnNo) : (s.countMissing n d).txn txn = s.txn txn :=
  State.txn_congr (State.countMissing_sys s n d) txn
end

/-! ## grantHold -/

section
variable (t : TxnNo) (x : Txn) (r : RingNo) (w : HoldReason) (i : SlotNo)

@[simp] theorem State.grantHold_inReset : (s.grantHold t x r w i).inReset = s.inReset := by
  unfold State.grantHold; simp
@[simp] theorem State.grantHold_part : (s.grantHold t x r w i).part = s.part := by
  unfold State.grantHold; simp
@[simp] theorem State.grantHold_mgmt : (s.grantHold t x r w i).mgmt = s.mgmt := by
  unfold State.grantHold; simp
@[simp] theorem State.grantHold_time : (s.grantHold t x r w i).time = s.time := by
  unfold State.grantHold; simp
@[simp] theorem State.grantHold_rings : (s.grantHold t x r w i).rings = s.rings := by
  unfold State.grantHold; simp
@[simp] theorem State.grantHold_awaiting : (s.grantHold t x r w i).awaiting = s.awaiting := by
  unfold State.grantHold; simp
@[simp] theorem State.grantHold_mem : (s.grantHold t x r w i).mem = s.mem := by
  unfold State.grantHold; simp
@[simp] theorem State.grantHold_events : (s.grantHold t x r w i).events = s.events := by
  unfold State.grantHold; simp
@[simp] theorem State.grantHold_freeCount : (s.grantHold t x r w i).freeCount = s.freeCount := by
  unfold State.grantHold; simp
@[simp] theorem State.grantHold_pending : (s.grantHold t x r w i).pending = s.pending := by
  unfold State.grantHold; simp
@[simp] theorem State.ring_grantHold (ring : RingNo) : (s.grantHold t x r w i).ring ring = s.ring ring :=
  State.ring_congr (State.grantHold_rings s t x r w i) ring
end

/-! ## askHold -/

section
variable (t : TxnNo) (x : Txn) (r : RingNo) (w : HoldReason)

@[simp] theorem State.askHold_inReset : (s.askHold t x r w).inReset = s.inReset := by
  unfold State.askHold; (repeat' split) <;> simp
@[simp] theorem State.askHold_part : (s.askHold t x r w).part = s.part := by
  unfold State.askHold; (repeat' split) <;> simp
@[simp] theorem State.askHold_mgmt : (s.askHold t x r w).mgmt = s.mgmt := by
  unfold State.askHold; (repeat' split) <;> simp
@[simp] theorem State.askHold_time : (s.askHold t x r w).time = s.time := by
  unfold State.askHold; (repeat' split) <;> simp
@[simp] theorem State.askHold_rings : (s.askHold t x r w).rings = s.rings := by
  unfold State.askHold; (repeat' split) <;> simp
@[simp] theorem State.askHold_awaiting : (s.askHold t x r w).awaiting = s.awaiting := by
  unfold State.askHold; (repeat' split) <;> simp
@[simp] theorem State.askHold_mem : (s.askHold t x r w).mem = s.mem := by
  unfold State.askHold; (repeat' split) <;> simp
@[simp] theorem State.askHold_events : (s.askHold t x r w).events = s.events := by
  unfold State.askHold; (repeat' split) <;> simp
@[simp] theorem State.askHold_freeCount : (s.askHold t x r w).freeCount = s.freeCount := by
  unfold State.askHold; (repeat' split) <;> simp
@[simp] theorem State.askHold_pending : (s.askHold t x r w).pending = s.pending := by
  unfold State.askHold; (repeat' split) <;> simp
@[simp] theorem State.ring_askHold (ring : RingNo) : (s.askHold t x r w).ring ring = s.ring ring :=
  State.ring_congr (State.askHold_rings s t x r w) ring
end

/-! ## answerHeld -/

section
variable (c : HoldEntry → Bool) (f : HoldEntry → Status)

@[simp] theorem State.answerHeld_inReset : (s.answerHeld c f).inReset = s.inReset := by
  unfold State.answerHeld; simp [foldl_unchanged (p := State.inReset)]
@[simp] theorem State.answerHeld_part : (s.answerHeld c f).part = s.part := by
  unfold State.answerHeld; simp [foldl_unchanged (p := State.part)]
@[simp] theorem State.answerHeld_mgmt : (s.answerHeld c f).mgmt = s.mgmt := by
  unfold State.answerHeld; simp [foldl_unchanged (p := State.mgmt)]
@[simp] theorem State.answerHeld_time : (s.answerHeld c f).time = s.time := by
  unfold State.answerHeld; simp [foldl_unchanged (p := State.time)]
@[simp] theorem State.answerHeld_rings : (s.answerHeld c f).rings = s.rings := by
  unfold State.answerHeld; simp [foldl_unchanged (p := State.rings)]
@[simp] theorem State.answerHeld_awaiting : (s.answerHeld c f).awaiting = s.awaiting := by
  unfold State.answerHeld; simp [foldl_unchanged (p := State.awaiting)]
@[simp] theorem State.answerHeld_mem : (s.answerHeld c f).mem = s.mem := by
  unfold State.answerHeld; simp [foldl_unchanged (p := State.mem)]
@[simp] theorem State.answerHeld_events : (s.answerHeld c f).events = s.events := by
  unfold State.answerHeld; simp [foldl_unchanged (p := State.events)]
@[simp] theorem State.answerHeld_freeCount : (s.answerHeld c f).freeCount = s.freeCount := by
  unfold State.answerHeld; simp [foldl_unchanged (p := State.freeCount)]
@[simp] theorem State.answerHeld_pending : (s.answerHeld c f).pending = s.pending := by
  unfold State.answerHeld; simp [foldl_unchanged (p := State.pending)]
@[simp] theorem State.ring_answerHeld (ring : RingNo) : (s.answerHeld c f).ring ring = s.ring ring :=
  State.ring_congr (State.answerHeld_rings s c f) ring
end

/-! ## answerHoldList -/

section
variable (r : RingNo) (f : HoldEntry → Status)

@[simp] theorem State.answerHoldList_inReset : (s.answerHoldList r f).inReset = s.inReset := by
  unfold State.answerHoldList; simp
@[simp] theorem State.answerHoldList_part : (s.answerHoldList r f).part = s.part := by
  unfold State.answerHoldList; simp
@[simp] theorem State.answerHoldList_mgmt : (s.answerHoldList r f).mgmt = s.mgmt := by
  unfold State.answerHoldList; simp
@[simp] theorem State.answerHoldList_time : (s.answerHoldList r f).time = s.time := by
  unfold State.answerHoldList; simp
@[simp] theorem State.answerHoldList_rings : (s.answerHoldList r f).rings = s.rings := by
  unfold State.answerHoldList; simp
@[simp] theorem State.answerHoldList_awaiting : (s.answerHoldList r f).awaiting = s.awaiting := by
  unfold State.answerHoldList; simp
@[simp] theorem State.answerHoldList_mem : (s.answerHoldList r f).mem = s.mem := by
  unfold State.answerHoldList; simp
@[simp] theorem State.answerHoldList_events : (s.answerHoldList r f).events = s.events := by
  unfold State.answerHoldList; simp
@[simp] theorem State.answerHoldList_freeCount : (s.answerHoldList r f).freeCount = s.freeCount := by
  unfold State.answerHoldList; simp
@[simp] theorem State.answerHoldList_pending : (s.answerHoldList r f).pending = s.pending := by
  unfold State.answerHoldList; simp
@[simp] theorem State.ring_answerHoldList (ring : RingNo) : (s.answerHoldList r f).ring ring = s.ring ring :=
  State.ring_congr (State.answerHoldList_rings s r f) ring
end

/-! ## releaseScan -/

section
variable (r : RingNo) (e : HoldReason → Bool)

@[simp] theorem State.releaseScan_inReset : (s.releaseScan r e).inReset = s.inReset := by
  unfold State.releaseScan; simp
@[simp] theorem State.releaseScan_part : (s.releaseScan r e).part = s.part := by
  unfold State.releaseScan; simp
@[simp] theorem State.releaseScan_mgmt : (s.releaseScan r e).mgmt = s.mgmt := by
  unfold State.releaseScan; simp
@[simp] theorem State.releaseScan_time : (s.releaseScan r e).time = s.time := by
  unfold State.releaseScan; simp
@[simp] theorem State.releaseScan_rings : (s.releaseScan r e).rings = s.rings := by
  unfold State.releaseScan; simp
@[simp] theorem State.releaseScan_awaiting : (s.releaseScan r e).awaiting = s.awaiting := by
  unfold State.releaseScan; simp
@[simp] theorem State.releaseScan_sys : (s.releaseScan r e).sys = s.sys := by
  unfold State.releaseScan; simp
@[simp] theorem State.releaseScan_mem : (s.releaseScan r e).mem = s.mem := by
  unfold State.releaseScan; simp
@[simp] theorem State.releaseScan_events : (s.releaseScan r e).events = s.events := by
  unfold State.releaseScan; simp
@[simp] theorem State.releaseScan_freeCount : (s.releaseScan r e).freeCount = s.freeCount := by
  unfold State.releaseScan; simp
@[simp] theorem State.releaseScan_pending : (s.releaseScan r e).pending = s.pending := by
  unfold State.releaseScan; simp
@[simp] theorem State.ring_releaseScan (ring : RingNo) : (s.releaseScan r e).ring ring = s.ring ring :=
  State.ring_congr (State.releaseScan_rings s r e) ring
@[simp] theorem State.txn_releaseScan (txn : TxnNo) : (s.releaseScan r e).txn txn = s.txn txn :=
  State.txn_congr (State.releaseScan_sys s r e) txn
end

/-! ## enqueueParts -/

section
variable (t : TxnNo) (x : Txn) (c : OpClass)

@[simp] theorem State.enqueueParts_inReset : (s.enqueueParts t x c).inReset = s.inReset := by
  unfold State.enqueueParts; simp
@[simp] theorem State.enqueueParts_part : (s.enqueueParts t x c).part = s.part := by
  unfold State.enqueueParts; simp
@[simp] theorem State.enqueueParts_mgmt : (s.enqueueParts t x c).mgmt = s.mgmt := by
  unfold State.enqueueParts; simp
@[simp] theorem State.enqueueParts_time : (s.enqueueParts t x c).time = s.time := by
  unfold State.enqueueParts; simp
@[simp] theorem State.enqueueParts_rings : (s.enqueueParts t x c).rings = s.rings := by
  unfold State.enqueueParts; simp
@[simp] theorem State.enqueueParts_awaiting : (s.enqueueParts t x c).awaiting = s.awaiting := by
  unfold State.enqueueParts; simp
@[simp] theorem State.enqueueParts_pool : (s.enqueueParts t x c).pool = s.pool := by
  unfold State.enqueueParts; simp
@[simp] theorem State.enqueueParts_events : (s.enqueueParts t x c).events = s.events := by
  unfold State.enqueueParts; simp
@[simp] theorem State.enqueueParts_freeCount : (s.enqueueParts t x c).freeCount = s.freeCount := by
  unfold State.enqueueParts; simp
@[simp] theorem State.enqueueParts_pending : (s.enqueueParts t x c).pending = s.pending := by
  unfold State.enqueueParts; simp
@[simp] theorem State.ring_enqueueParts (ring : RingNo) : (s.enqueueParts t x c).ring ring = s.ring ring :=
  State.ring_congr (State.enqueueParts_rings s t x c) ring
end

/-! ## setOutcome -/

section
variable (r : RingNo) (o : CommandOutcome)

@[simp] theorem State.setOutcome_inReset : (s.setOutcome r o).inReset = s.inReset := by
  unfold State.setOutcome; simp
@[simp] theorem State.setOutcome_part : (s.setOutcome r o).part = s.part := by
  unfold State.setOutcome; simp
@[simp] theorem State.setOutcome_mgmt : (s.setOutcome r o).mgmt = s.mgmt := by
  unfold State.setOutcome; simp
@[simp] theorem State.setOutcome_time : (s.setOutcome r o).time = s.time := by
  unfold State.setOutcome; simp
@[simp] theorem State.setOutcome_awaiting : (s.setOutcome r o).awaiting = s.awaiting := by
  unfold State.setOutcome; simp
@[simp] theorem State.setOutcome_pool : (s.setOutcome r o).pool = s.pool := by
  unfold State.setOutcome; simp
@[simp] theorem State.setOutcome_sys : (s.setOutcome r o).sys = s.sys := by
  unfold State.setOutcome; simp
@[simp] theorem State.setOutcome_mem : (s.setOutcome r o).mem = s.mem := by
  unfold State.setOutcome; simp
@[simp] theorem State.setOutcome_events : (s.setOutcome r o).events = s.events := by
  unfold State.setOutcome; simp
@[simp] theorem State.setOutcome_freeCount : (s.setOutcome r o).freeCount = s.freeCount := by
  unfold State.setOutcome; simp
@[simp] theorem State.setOutcome_pending : (s.setOutcome r o).pending = s.pending := by
  unfold State.setOutcome; simp
@[simp] theorem State.txn_setOutcome (txn : TxnNo) : (s.setOutcome r o).txn txn = s.txn txn :=
  State.txn_congr (State.setOutcome_sys s r o) txn
end

/-! ## testDrainEnd -/

section
variable (r : RingNo)

@[simp] theorem State.testDrainEnd_inReset : (s.testDrainEnd r).inReset = s.inReset := by
  unfold State.testDrainEnd; dsimp only; (repeat' split) <;> simp
@[simp] theorem State.testDrainEnd_part : (s.testDrainEnd r).part = s.part := by
  unfold State.testDrainEnd; dsimp only; (repeat' split) <;> simp
@[simp] theorem State.testDrainEnd_mgmt : (s.testDrainEnd r).mgmt = s.mgmt := by
  unfold State.testDrainEnd; dsimp only; (repeat' split) <;> simp
@[simp] theorem State.testDrainEnd_time : (s.testDrainEnd r).time = s.time := by
  unfold State.testDrainEnd; dsimp only; (repeat' split) <;> simp
@[simp] theorem State.testDrainEnd_awaiting : (s.testDrainEnd r).awaiting = s.awaiting := by
  unfold State.testDrainEnd; dsimp only; (repeat' split) <;> simp
@[simp] theorem State.testDrainEnd_pool : (s.testDrainEnd r).pool = s.pool := by
  unfold State.testDrainEnd; dsimp only; (repeat' split) <;> simp
@[simp] theorem State.testDrainEnd_sys : (s.testDrainEnd r).sys = s.sys := by
  unfold State.testDrainEnd; dsimp only; (repeat' split) <;> simp
@[simp] theorem State.testDrainEnd_mem : (s.testDrainEnd r).mem = s.mem := by
  unfold State.testDrainEnd; dsimp only; (repeat' split) <;> simp
@[simp] theorem State.testDrainEnd_freeCount : (s.testDrainEnd r).freeCount = s.freeCount := by
  unfold State.testDrainEnd; dsimp only; (repeat' split) <;> simp
@[simp] theorem State.testDrainEnd_pending : (s.testDrainEnd r).pending = s.pending := by
  unfold State.testDrainEnd; dsimp only; (repeat' split) <;> simp
@[simp] theorem State.txn_testDrainEnd (txn : TxnNo) : (s.testDrainEnd r).txn txn = s.txn txn :=
  State.txn_congr (State.testDrainEnd_sys s r) txn
end

/-! ## markCleared -/

section
variable (r : RingNo)

@[simp] theorem State.markCleared_inReset : (s.markCleared r).inReset = s.inReset := by
  unfold State.markCleared; simp
@[simp] theorem State.markCleared_part : (s.markCleared r).part = s.part := by
  unfold State.markCleared; simp
@[simp] theorem State.markCleared_mgmt : (s.markCleared r).mgmt = s.mgmt := by
  unfold State.markCleared; simp
@[simp] theorem State.markCleared_time : (s.markCleared r).time = s.time := by
  unfold State.markCleared; simp
@[simp] theorem State.markCleared_rings : (s.markCleared r).rings = s.rings := by
  unfold State.markCleared; simp
@[simp] theorem State.markCleared_awaiting : (s.markCleared r).awaiting = s.awaiting := by
  unfold State.markCleared; simp
@[simp] theorem State.markCleared_pool : (s.markCleared r).pool = s.pool := by
  unfold State.markCleared; simp
@[simp] theorem State.markCleared_mem : (s.markCleared r).mem = s.mem := by
  unfold State.markCleared; simp
@[simp] theorem State.markCleared_events : (s.markCleared r).events = s.events := by
  unfold State.markCleared; simp
@[simp] theorem State.markCleared_freeCount : (s.markCleared r).freeCount = s.freeCount := by
  unfold State.markCleared; simp
@[simp] theorem State.markCleared_pending : (s.markCleared r).pending = s.pending := by
  unfold State.markCleared; simp
@[simp] theorem State.ring_markCleared (ring : RingNo) : (s.markCleared r).ring ring = s.ring ring :=
  State.ring_congr (State.markCleared_rings s r) ring
end

/-! ## testClearEnd -/

section
variable (r : RingNo)

@[simp] theorem State.testClearEnd_inReset : (s.testClearEnd r).inReset = s.inReset := by
  unfold State.testClearEnd; (repeat' split) <;> simp
@[simp] theorem State.testClearEnd_part : (s.testClearEnd r).part = s.part := by
  unfold State.testClearEnd; (repeat' split) <;> simp
@[simp] theorem State.testClearEnd_mgmt : (s.testClearEnd r).mgmt = s.mgmt := by
  unfold State.testClearEnd; (repeat' split) <;> simp
@[simp] theorem State.testClearEnd_time : (s.testClearEnd r).time = s.time := by
  unfold State.testClearEnd; (repeat' split) <;> simp
@[simp] theorem State.testClearEnd_awaiting : (s.testClearEnd r).awaiting = s.awaiting := by
  unfold State.testClearEnd; (repeat' split) <;> simp
@[simp] theorem State.testClearEnd_pool : (s.testClearEnd r).pool = s.pool := by
  unfold State.testClearEnd; (repeat' split) <;> simp
@[simp] theorem State.testClearEnd_mem : (s.testClearEnd r).mem = s.mem := by
  unfold State.testClearEnd; (repeat' split) <;> simp
@[simp] theorem State.testClearEnd_freeCount : (s.testClearEnd r).freeCount = s.freeCount := by
  unfold State.testClearEnd; (repeat' split) <;> simp
@[simp] theorem State.testClearEnd_pending : (s.testClearEnd r).pending = s.pending := by
  unfold State.testClearEnd; (repeat' split) <;> simp
end

/-! ## beginClear -/

section
variable (r : RingNo)

@[simp] theorem State.beginClear_inReset : (s.beginClear r).inReset = s.inReset := by
  unfold State.beginClear; simp
@[simp] theorem State.beginClear_part : (s.beginClear r).part = s.part := by
  unfold State.beginClear; simp
@[simp] theorem State.beginClear_mgmt : (s.beginClear r).mgmt = s.mgmt := by
  unfold State.beginClear; simp
@[simp] theorem State.beginClear_time : (s.beginClear r).time = s.time := by
  unfold State.beginClear; simp
@[simp] theorem State.beginClear_awaiting : (s.beginClear r).awaiting = s.awaiting := by
  unfold State.beginClear; simp
@[simp] theorem State.beginClear_mem : (s.beginClear r).mem = s.mem := by
  unfold State.beginClear; simp
@[simp] theorem State.beginClear_freeCount : (s.beginClear r).freeCount = s.freeCount := by
  unfold State.beginClear; simp
@[simp] theorem State.beginClear_pending : (s.beginClear r).pending = s.pending := by
  unfold State.beginClear; simp
end

/-! ## enterHalted -/

section
variable (r : RingNo)

@[simp] theorem State.enterHalted_inReset : (s.enterHalted r).inReset = s.inReset := by
  unfold State.enterHalted; simp
@[simp] theorem State.enterHalted_part : (s.enterHalted r).part = s.part := by
  unfold State.enterHalted; simp
@[simp] theorem State.enterHalted_mgmt : (s.enterHalted r).mgmt = s.mgmt := by
  unfold State.enterHalted; simp
@[simp] theorem State.enterHalted_time : (s.enterHalted r).time = s.time := by
  unfold State.enterHalted; simp
@[simp] theorem State.enterHalted_awaiting : (s.enterHalted r).awaiting = s.awaiting := by
  unfold State.enterHalted; simp
@[simp] theorem State.enterHalted_mem : (s.enterHalted r).mem = s.mem := by
  unfold State.enterHalted; simp
@[simp] theorem State.enterHalted_freeCount : (s.enterHalted r).freeCount = s.freeCount := by
  unfold State.enterHalted; simp
@[simp] theorem State.enterHalted_pending : (s.enterHalted r).pending = s.pending := by
  unfold State.enterHalted; simp
end

/-! ## finishWriteEnd -/

section
variable (r : RingNo) (f : Nat)

@[simp] theorem State.finishWriteEnd_inReset : (s.finishWriteEnd r f).inReset = s.inReset := by
  unfold State.finishWriteEnd; dsimp only; (repeat' split) <;> simp
@[simp] theorem State.finishWriteEnd_part : (s.finishWriteEnd r f).part = s.part := by
  unfold State.finishWriteEnd; dsimp only; (repeat' split) <;> simp
@[simp] theorem State.finishWriteEnd_mgmt : (s.finishWriteEnd r f).mgmt = s.mgmt := by
  unfold State.finishWriteEnd; dsimp only; (repeat' split) <;> simp
@[simp] theorem State.finishWriteEnd_time : (s.finishWriteEnd r f).time = s.time := by
  unfold State.finishWriteEnd; dsimp only; (repeat' split) <;> simp
@[simp] theorem State.finishWriteEnd_awaiting : (s.finishWriteEnd r f).awaiting = s.awaiting := by
  unfold State.finishWriteEnd; dsimp only; (repeat' split) <;> simp
@[simp] theorem State.finishWriteEnd_sys : (s.finishWriteEnd r f).sys = s.sys := by
  unfold State.finishWriteEnd; dsimp only; (repeat' split) <;> simp
@[simp] theorem State.finishWriteEnd_mem : (s.finishWriteEnd r f).mem = s.mem := by
  unfold State.finishWriteEnd; dsimp only; (repeat' split) <;> simp
@[simp] theorem State.finishWriteEnd_freeCount : (s.finishWriteEnd r f).freeCount = s.freeCount := by
  unfold State.finishWriteEnd; dsimp only; (repeat' split) <;> simp
@[simp] theorem State.finishWriteEnd_pending : (s.finishWriteEnd r f).pending = s.pending := by
  unfold State.finishWriteEnd; dsimp only; (repeat' split) <;> simp
@[simp] theorem State.txn_finishWriteEnd (txn : TxnNo) : (s.finishWriteEnd r f).txn txn = s.txn txn :=
  State.txn_congr (State.finishWriteEnd_sys s r f) txn
end

/-! ## absorbWrites -/

section
variable (r : RingNo)

@[simp] theorem State.absorbWrites_inReset : (s.absorbWrites r).inReset = s.inReset := by
  unfold State.absorbWrites; dsimp only; (repeat' split) <;> simp [foldl_unchanged (p := State.inReset)]
@[simp] theorem State.absorbWrites_part : (s.absorbWrites r).part = s.part := by
  unfold State.absorbWrites; dsimp only; (repeat' split) <;> simp [foldl_unchanged (p := State.part)]
@[simp] theorem State.absorbWrites_mgmt : (s.absorbWrites r).mgmt = s.mgmt := by
  unfold State.absorbWrites; dsimp only; (repeat' split) <;> simp [foldl_unchanged (p := State.mgmt)]
@[simp] theorem State.absorbWrites_time : (s.absorbWrites r).time = s.time := by
  unfold State.absorbWrites; dsimp only; (repeat' split) <;> simp [foldl_unchanged (p := State.time)]
@[simp] theorem State.absorbWrites_awaiting : (s.absorbWrites r).awaiting = s.awaiting := by
  unfold State.absorbWrites; dsimp only; (repeat' split) <;> simp [foldl_unchanged (p := State.awaiting)]
@[simp] theorem State.absorbWrites_mem : (s.absorbWrites r).mem = s.mem := by
  unfold State.absorbWrites; dsimp only; (repeat' split) <;> simp [foldl_unchanged (p := State.mem)]
@[simp] theorem State.absorbWrites_freeCount : (s.absorbWrites r).freeCount = s.freeCount := by
  unfold State.absorbWrites; dsimp only; (repeat' split) <;> simp [foldl_unchanged (p := State.freeCount)]
@[simp] theorem State.absorbWrites_pending : (s.absorbWrites r).pending = s.pending := by
  unfold State.absorbWrites; dsimp only; (repeat' split) <;> simp [foldl_unchanged (p := State.pending)]
end

/-! ## absorbReads -/

section
variable (r : RingNo)

@[simp] theorem State.absorbReads_inReset : (s.absorbReads r).inReset = s.inReset := by
  unfold State.absorbReads; dsimp only; (repeat' split) <;> simp
@[simp] theorem State.absorbReads_part : (s.absorbReads r).part = s.part := by
  unfold State.absorbReads; dsimp only; (repeat' split) <;> simp
@[simp] theorem State.absorbReads_mgmt : (s.absorbReads r).mgmt = s.mgmt := by
  unfold State.absorbReads; dsimp only; (repeat' split) <;> simp
@[simp] theorem State.absorbReads_time : (s.absorbReads r).time = s.time := by
  unfold State.absorbReads; dsimp only; (repeat' split) <;> simp
@[simp] theorem State.absorbReads_awaiting : (s.absorbReads r).awaiting = s.awaiting := by
  unfold State.absorbReads; dsimp only; (repeat' split) <;> simp
@[simp] theorem State.absorbReads_sys : (s.absorbReads r).sys = s.sys := by
  unfold State.absorbReads; dsimp only; (repeat' split) <;> simp
@[simp] theorem State.absorbReads_mem : (s.absorbReads r).mem = s.mem := by
  unfold State.absorbReads; dsimp only; (repeat' split) <;> simp
@[simp] theorem State.absorbReads_freeCount : (s.absorbReads r).freeCount = s.freeCount := by
  unfold State.absorbReads; dsimp only; (repeat' split) <;> simp
@[simp] theorem State.absorbReads_pending : (s.absorbReads r).pending = s.pending := by
  unfold State.absorbReads; dsimp only; (repeat' split) <;> simp
@[simp] theorem State.txn_absorbReads (txn : TxnNo) : (s.absorbReads r).txn txn = s.txn txn :=
  State.txn_congr (State.absorbReads_sys s r) txn
end

/-! ## endWrite -/

section
variable (r : RingNo) (t : TxnNo) (k : Bool)

@[simp] theorem State.endWrite_inReset : (s.endWrite r t k).inReset = s.inReset := by
  unfold State.endWrite; dsimp only; (repeat' split) <;> simp
@[simp] theorem State.endWrite_part : (s.endWrite r t k).part = s.part := by
  unfold State.endWrite; dsimp only; (repeat' split) <;> simp
@[simp] theorem State.endWrite_mgmt : (s.endWrite r t k).mgmt = s.mgmt := by
  unfold State.endWrite; dsimp only; (repeat' split) <;> simp
@[simp] theorem State.endWrite_time : (s.endWrite r t k).time = s.time := by
  unfold State.endWrite; dsimp only; (repeat' split) <;> simp
@[simp] theorem State.endWrite_awaiting : (s.endWrite r t k).awaiting = s.awaiting := by
  unfold State.endWrite; dsimp only; (repeat' split) <;> simp
@[simp] theorem State.endWrite_mem : (s.endWrite r t k).mem = s.mem := by
  unfold State.endWrite; dsimp only; (repeat' split) <;> simp
@[simp] theorem State.endWrite_freeCount : (s.endWrite r t k).freeCount = s.freeCount := by
  unfold State.endWrite; dsimp only; (repeat' split) <;> simp
@[simp] theorem State.endWrite_pending : (s.endWrite r t k).pending = s.pending := by
  unfold State.endWrite; dsimp only; (repeat' split) <;> simp
end

/-! ## endRead -/

section
variable (r : RingNo) (t : TxnNo) (k : Bool) (d : List Byte)

@[simp] theorem State.endRead_inReset : (s.endRead r t k d).inReset = s.inReset := by
  unfold State.endRead; dsimp only; (repeat' split) <;> simp
@[simp] theorem State.endRead_part : (s.endRead r t k d).part = s.part := by
  unfold State.endRead; dsimp only; (repeat' split) <;> simp
@[simp] theorem State.endRead_mgmt : (s.endRead r t k d).mgmt = s.mgmt := by
  unfold State.endRead; dsimp only; (repeat' split) <;> simp
@[simp] theorem State.endRead_time : (s.endRead r t k d).time = s.time := by
  unfold State.endRead; dsimp only; (repeat' split) <;> simp
@[simp] theorem State.endRead_awaiting : (s.endRead r t k d).awaiting = s.awaiting := by
  unfold State.endRead; dsimp only; (repeat' split) <;> simp
@[simp] theorem State.endRead_mem : (s.endRead r t k d).mem = s.mem := by
  unfold State.endRead; dsimp only; (repeat' split) <;> simp
@[simp] theorem State.endRead_freeCount : (s.endRead r t k d).freeCount = s.freeCount := by
  unfold State.endRead; dsimp only; (repeat' split) <;> simp
@[simp] theorem State.endRead_pending : (s.endRead r t k d).pending = s.pending := by
  unfold State.endRead; dsimp only; (repeat' split) <;> simp
end

/-! ## testResetCompletion -/

section
@[simp] theorem State.testResetCompletion_inReset : (s.testResetCompletion).inReset = s.inReset := by
  unfold State.testResetCompletion; (repeat' split) <;> simp
@[simp] theorem State.testResetCompletion_mgmt : (s.testResetCompletion).mgmt = s.mgmt := by
  unfold State.testResetCompletion; (repeat' split) <;> simp
@[simp] theorem State.testResetCompletion_time : (s.testResetCompletion).time = s.time := by
  unfold State.testResetCompletion; (repeat' split) <;> simp
@[simp] theorem State.testResetCompletion_awaiting : (s.testResetCompletion).awaiting = s.awaiting := by
  unfold State.testResetCompletion; (repeat' split) <;> simp
@[simp] theorem State.testResetCompletion_pool : (s.testResetCompletion).pool = s.pool := by
  unfold State.testResetCompletion; (repeat' split) <;> simp
@[simp] theorem State.testResetCompletion_sys : (s.testResetCompletion).sys = s.sys := by
  unfold State.testResetCompletion; (repeat' split) <;> simp
@[simp] theorem State.testResetCompletion_mem : (s.testResetCompletion).mem = s.mem := by
  unfold State.testResetCompletion; (repeat' split) <;> simp
@[simp] theorem State.testResetCompletion_freeCount : (s.testResetCompletion).freeCount = s.freeCount := by
  unfold State.testResetCompletion; (repeat' split) <;> simp
@[simp] theorem State.testResetCompletion_pending : (s.testResetCompletion).pending = s.pending := by
  unfold State.testResetCompletion; (repeat' split) <;> simp
@[simp] theorem State.txn_testResetCompletion (txn : TxnNo) : (s.testResetCompletion).txn txn = s.txn txn :=
  State.txn_congr (State.testResetCompletion_sys s) txn
end

/-! ## overtake -/

section
variable (r : RingNo) (e : Nat)

@[simp] theorem State.overtake_inReset : (s.overtake r e).inReset = s.inReset := by
  unfold State.overtake; simp
@[simp] theorem State.overtake_part : (s.overtake r e).part = s.part := by
  unfold State.overtake; simp
@[simp] theorem State.overtake_mgmt : (s.overtake r e).mgmt = s.mgmt := by
  unfold State.overtake; simp
@[simp] theorem State.overtake_time : (s.overtake r e).time = s.time := by
  unfold State.overtake; simp
@[simp] theorem State.overtake_awaiting : (s.overtake r e).awaiting = s.awaiting := by
  unfold State.overtake; simp
@[simp] theorem State.overtake_mem : (s.overtake r e).mem = s.mem := by
  unfold State.overtake; simp
@[simp] theorem State.overtake_freeCount : (s.overtake r e).freeCount = s.freeCount := by
  unfold State.overtake; simp
@[simp] theorem State.overtake_pending : (s.overtake r e).pending = s.pending := by
  unfold State.overtake; simp
end

/-! ## admitWrite -/

section
variable (t : TxnNo) (x : Txn) (r : RingNo) (e : Extent)

@[simp] theorem State.admitWrite_inReset : (s.admitWrite t x r e).inReset = s.inReset := by
  unfold State.admitWrite; dsimp only; (repeat' split) <;> simp
@[simp] theorem State.admitWrite_part : (s.admitWrite t x r e).part = s.part := by
  unfold State.admitWrite; dsimp only; (repeat' split) <;> simp
@[simp] theorem State.admitWrite_mgmt : (s.admitWrite t x r e).mgmt = s.mgmt := by
  unfold State.admitWrite; dsimp only; (repeat' split) <;> simp
@[simp] theorem State.admitWrite_time : (s.admitWrite t x r e).time = s.time := by
  unfold State.admitWrite; dsimp only; (repeat' split) <;> simp
@[simp] theorem State.admitWrite_awaiting : (s.admitWrite t x r e).awaiting = s.awaiting := by
  unfold State.admitWrite; dsimp only; (repeat' split) <;> simp
@[simp] theorem State.admitWrite_freeCount : (s.admitWrite t x r e).freeCount = s.freeCount := by
  unfold State.admitWrite; dsimp only; (repeat' split) <;> simp
@[simp] theorem State.admitWrite_pending : (s.admitWrite t x r e).pending = s.pending := by
  unfold State.admitWrite; dsimp only; (repeat' split) <;> simp
end

/-! ## takeWrite -/

section
variable (t : TxnNo) (x : Txn) (r : RingNo) (e : Extent)

@[simp] theorem State.takeWrite_inReset : (s.takeWrite t x r e).inReset = s.inReset := by
  unfold State.takeWrite; (repeat' split) <;> simp
@[simp] theorem State.takeWrite_part : (s.takeWrite t x r e).part = s.part := by
  unfold State.takeWrite; (repeat' split) <;> simp
@[simp] theorem State.takeWrite_mgmt : (s.takeWrite t x r e).mgmt = s.mgmt := by
  unfold State.takeWrite; (repeat' split) <;> simp
@[simp] theorem State.takeWrite_time : (s.takeWrite t x r e).time = s.time := by
  unfold State.takeWrite; (repeat' split) <;> simp
@[simp] theorem State.takeWrite_awaiting : (s.takeWrite t x r e).awaiting = s.awaiting := by
  unfold State.takeWrite; (repeat' split) <;> simp
@[simp] theorem State.takeWrite_freeCount : (s.takeWrite t x r e).freeCount = s.freeCount := by
  unfold State.takeWrite; (repeat' split) <;> simp
@[simp] theorem State.takeWrite_pending : (s.takeWrite t x r e).pending = s.pending := by
  unfold State.takeWrite; (repeat' split) <;> simp
end

/-! ## poisonedRead -/

section
variable (t : TxnNo) (r : RingNo) (p : Option Extent)

@[simp] theorem State.poisonedRead_inReset : (s.poisonedRead t r p).inReset = s.inReset := by
  unfold State.poisonedRead; (repeat' split) <;> simp
@[simp] theorem State.poisonedRead_part : (s.poisonedRead t r p).part = s.part := by
  unfold State.poisonedRead; (repeat' split) <;> simp
@[simp] theorem State.poisonedRead_mgmt : (s.poisonedRead t r p).mgmt = s.mgmt := by
  unfold State.poisonedRead; (repeat' split) <;> simp
@[simp] theorem State.poisonedRead_time : (s.poisonedRead t r p).time = s.time := by
  unfold State.poisonedRead; (repeat' split) <;> simp
@[simp] theorem State.poisonedRead_awaiting : (s.poisonedRead t r p).awaiting = s.awaiting := by
  unfold State.poisonedRead; (repeat' split) <;> simp
@[simp] theorem State.poisonedRead_mem : (s.poisonedRead t r p).mem = s.mem := by
  unfold State.poisonedRead; (repeat' split) <;> simp
@[simp] theorem State.poisonedRead_freeCount : (s.poisonedRead t r p).freeCount = s.freeCount := by
  unfold State.poisonedRead; (repeat' split) <;> simp
@[simp] theorem State.poisonedRead_pending : (s.poisonedRead t r p).pending = s.pending := by
  unfold State.poisonedRead; (repeat' split) <;> simp
end

/-! ## takeRead -/

section
variable (t : TxnNo) (x : Txn) (r : RingNo) (e : Extent)

@[simp] theorem State.takeRead_inReset : (s.takeRead t x r e).inReset = s.inReset := by
  unfold State.takeRead; dsimp only; (repeat' split) <;> simp
@[simp] theorem State.takeRead_part : (s.takeRead t x r e).part = s.part := by
  unfold State.takeRead; dsimp only; (repeat' split) <;> simp
@[simp] theorem State.takeRead_mgmt : (s.takeRead t x r e).mgmt = s.mgmt := by
  unfold State.takeRead; dsimp only; (repeat' split) <;> simp
@[simp] theorem State.takeRead_time : (s.takeRead t x r e).time = s.time := by
  unfold State.takeRead; dsimp only; (repeat' split) <;> simp
@[simp] theorem State.takeRead_awaiting : (s.takeRead t x r e).awaiting = s.awaiting := by
  unfold State.takeRead; dsimp only; (repeat' split) <;> simp
@[simp] theorem State.takeRead_freeCount : (s.takeRead t x r e).freeCount = s.freeCount := by
  unfold State.takeRead; dsimp only; (repeat' split) <;> simp
@[simp] theorem State.takeRead_pending : (s.takeRead t x r e).pending = s.pending := by
  unfold State.takeRead; dsimp only; (repeat' split) <;> simp
end

/-! ## admitHeld -/

section
variable (h : HoldEntry)

@[simp] theorem State.admitHeld_inReset : (s.admitHeld h).inReset = s.inReset := by
  unfold State.admitHeld; (repeat' split) <;> simp
@[simp] theorem State.admitHeld_part : (s.admitHeld h).part = s.part := by
  unfold State.admitHeld; (repeat' split) <;> simp
@[simp] theorem State.admitHeld_mgmt : (s.admitHeld h).mgmt = s.mgmt := by
  unfold State.admitHeld; (repeat' split) <;> simp
@[simp] theorem State.admitHeld_time : (s.admitHeld h).time = s.time := by
  unfold State.admitHeld; (repeat' split) <;> simp
@[simp] theorem State.admitHeld_awaiting : (s.admitHeld h).awaiting = s.awaiting := by
  unfold State.admitHeld; (repeat' split) <;> simp
@[simp] theorem State.admitHeld_freeCount : (s.admitHeld h).freeCount = s.freeCount := by
  unfold State.admitHeld; (repeat' split) <;> simp
@[simp] theorem State.admitHeld_pending : (s.admitHeld h).pending = s.pending := by
  unfold State.admitHeld; (repeat' split) <;> simp
end

/-! ## readmitHead -/

section
@[simp] theorem State.readmitHead_inReset : (s.readmitHead).inReset = s.inReset := by
  unfold State.readmitHead; (repeat' split) <;> simp
@[simp] theorem State.readmitHead_part : (s.readmitHead).part = s.part := by
  unfold State.readmitHead; (repeat' split) <;> simp
@[simp] theorem State.readmitHead_mgmt : (s.readmitHead).mgmt = s.mgmt := by
  unfold State.readmitHead; (repeat' split) <;> simp
@[simp] theorem State.readmitHead_time : (s.readmitHead).time = s.time := by
  unfold State.readmitHead; (repeat' split) <;> simp
@[simp] theorem State.readmitHead_awaiting : (s.readmitHead).awaiting = s.awaiting := by
  unfold State.readmitHead; (repeat' split) <;> simp
@[simp] theorem State.readmitHead_freeCount : (s.readmitHead).freeCount = s.freeCount := by
  unfold State.readmitHead; (repeat' split) <;> simp
@[simp] theorem State.readmitHead_pending : (s.readmitHead).pending = s.pending := by
  unfold State.readmitHead; (repeat' split) <;> simp
end

/-! ## decodeRequest -/

section
variable (t : TxnNo) (x : Txn)

@[simp] theorem State.decodeRequest_inReset : (s.decodeRequest t x).inReset = s.inReset := by
  unfold State.decodeRequest; (repeat' split) <;> simp
@[simp] theorem State.decodeRequest_part : (s.decodeRequest t x).part = s.part := by
  unfold State.decodeRequest; (repeat' split) <;> simp
@[simp] theorem State.decodeRequest_mgmt : (s.decodeRequest t x).mgmt = s.mgmt := by
  unfold State.decodeRequest; (repeat' split) <;> simp
@[simp] theorem State.decodeRequest_time : (s.decodeRequest t x).time = s.time := by
  unfold State.decodeRequest; (repeat' split) <;> simp
@[simp] theorem State.decodeRequest_rings : (s.decodeRequest t x).rings = s.rings := by
  unfold State.decodeRequest; (repeat' split) <;> simp
@[simp] theorem State.decodeRequest_pool : (s.decodeRequest t x).pool = s.pool := by
  unfold State.decodeRequest; (repeat' split) <;> simp
@[simp] theorem State.decodeRequest_events : (s.decodeRequest t x).events = s.events := by
  unfold State.decodeRequest; (repeat' split) <;> simp
@[simp] theorem State.decodeRequest_freeCount : (s.decodeRequest t x).freeCount = s.freeCount := by
  unfold State.decodeRequest; (repeat' split) <;> simp
@[simp] theorem State.decodeRequest_pending : (s.decodeRequest t x).pending = s.pending := by
  unfold State.decodeRequest; (repeat' split) <;> simp
@[simp] theorem State.ring_decodeRequest (ring : RingNo) : (s.decodeRequest t x).ring ring = s.ring ring :=
  State.ring_congr (State.decodeRequest_rings s t x) ring
end

/-! ## countRequest -/

section
variable (q : Request)

@[simp] theorem State.countRequest_inReset : (s.countRequest q).inReset = s.inReset := by
  unfold State.countRequest; (repeat' split) <;> simp
@[simp] theorem State.countRequest_part : (s.countRequest q).part = s.part := by
  unfold State.countRequest; (repeat' split) <;> simp
@[simp] theorem State.countRequest_mgmt : (s.countRequest q).mgmt = s.mgmt := by
  unfold State.countRequest; (repeat' split) <;> simp
@[simp] theorem State.countRequest_time : (s.countRequest q).time = s.time := by
  unfold State.countRequest; (repeat' split) <;> simp
@[simp] theorem State.countRequest_rings : (s.countRequest q).rings = s.rings := by
  unfold State.countRequest; (repeat' split) <;> simp
@[simp] theorem State.countRequest_awaiting : (s.countRequest q).awaiting = s.awaiting := by
  unfold State.countRequest; (repeat' split) <;> simp
@[simp] theorem State.countRequest_pool : (s.countRequest q).pool = s.pool := by
  unfold State.countRequest; (repeat' split) <;> simp
@[simp] theorem State.countRequest_sys : (s.countRequest q).sys = s.sys := by
  unfold State.countRequest; (repeat' split) <;> simp
@[simp] theorem State.countRequest_mem : (s.countRequest q).mem = s.mem := by
  unfold State.countRequest; (repeat' split) <;> simp
@[simp] theorem State.countRequest_events : (s.countRequest q).events = s.events := by
  unfold State.countRequest; (repeat' split) <;> simp
@[simp] theorem State.countRequest_pending : (s.countRequest q).pending = s.pending := by
  unfold State.countRequest; (repeat' split) <;> simp
@[simp] theorem State.ring_countRequest (ring : RingNo) : (s.countRequest q).ring ring = s.ring ring :=
  State.ring_congr (State.countRequest_rings s q) ring
@[simp] theorem State.txn_countRequest (txn : TxnNo) : (s.countRequest q).txn txn = s.txn txn :=
  State.txn_congr (State.countRequest_sys s q) txn
end

/-! ## acceptInto -/

section
variable (t : TxnNo) (q : Request)

@[simp] theorem State.acceptInto_inReset : (s.acceptInto t q).inReset = s.inReset := by
  unfold State.acceptInto; dsimp only; (repeat' split) <;> simp
@[simp] theorem State.acceptInto_part : (s.acceptInto t q).part = s.part := by
  unfold State.acceptInto; dsimp only; (repeat' split) <;> simp
@[simp] theorem State.acceptInto_mgmt : (s.acceptInto t q).mgmt = s.mgmt := by
  unfold State.acceptInto; dsimp only; (repeat' split) <;> simp
@[simp] theorem State.acceptInto_time : (s.acceptInto t q).time = s.time := by
  unfold State.acceptInto; dsimp only; (repeat' split) <;> simp
@[simp] theorem State.acceptInto_rings : (s.acceptInto t q).rings = s.rings := by
  unfold State.acceptInto; dsimp only; (repeat' split) <;> simp
@[simp] theorem State.acceptInto_pool : (s.acceptInto t q).pool = s.pool := by
  unfold State.acceptInto; dsimp only; (repeat' split) <;> simp
@[simp] theorem State.acceptInto_events : (s.acceptInto t q).events = s.events := by
  unfold State.acceptInto; dsimp only; (repeat' split) <;> simp
@[simp] theorem State.acceptInto_pending : (s.acceptInto t q).pending = s.pending := by
  unfold State.acceptInto; dsimp only; (repeat' split) <;> simp
@[simp] theorem State.ring_acceptInto (ring : RingNo) : (s.acceptInto t q).ring ring = s.ring ring :=
  State.ring_congr (State.acceptInto_rings s t q) ring
end

/-! ## acceptRequest -/

section
variable (q : Request)

@[simp] theorem State.acceptRequest_inReset : (s.acceptRequest q).inReset = s.inReset := by
  unfold State.acceptRequest; (repeat' split) <;> simp
@[simp] theorem State.acceptRequest_part : (s.acceptRequest q).part = s.part := by
  unfold State.acceptRequest; (repeat' split) <;> simp
@[simp] theorem State.acceptRequest_mgmt : (s.acceptRequest q).mgmt = s.mgmt := by
  unfold State.acceptRequest; (repeat' split) <;> simp
@[simp] theorem State.acceptRequest_time : (s.acceptRequest q).time = s.time := by
  unfold State.acceptRequest; (repeat' split) <;> simp
@[simp] theorem State.acceptRequest_rings : (s.acceptRequest q).rings = s.rings := by
  unfold State.acceptRequest; (repeat' split) <;> simp
@[simp] theorem State.acceptRequest_pool : (s.acceptRequest q).pool = s.pool := by
  unfold State.acceptRequest; (repeat' split) <;> simp
@[simp] theorem State.acceptRequest_events : (s.acceptRequest q).events = s.events := by
  unfold State.acceptRequest; (repeat' split) <;> simp
@[simp] theorem State.acceptRequest_pending : (s.acceptRequest q).pending = s.pending := by
  unfold State.acceptRequest; (repeat' split) <;> simp
@[simp] theorem State.ring_acceptRequest (ring : RingNo) : (s.acceptRequest q).ring ring = s.ring ring :=
  State.ring_congr (State.acceptRequest_rings s q) ring
end

/-! ## deliverHead -/

section
@[simp] theorem State.deliverHead_inReset : (s.deliverHead).inReset = s.inReset := by
  unfold State.deliverHead; (repeat' split) <;> simp
@[simp] theorem State.deliverHead_mgmt : (s.deliverHead).mgmt = s.mgmt := by
  unfold State.deliverHead; (repeat' split) <;> simp
@[simp] theorem State.deliverHead_time : (s.deliverHead).time = s.time := by
  unfold State.deliverHead; (repeat' split) <;> simp
@[simp] theorem State.deliverHead_awaiting : (s.deliverHead).awaiting = s.awaiting := by
  unfold State.deliverHead; (repeat' split) <;> simp
@[simp] theorem State.deliverHead_pool : (s.deliverHead).pool = s.pool := by
  unfold State.deliverHead; (repeat' split) <;> simp
@[simp] theorem State.deliverHead_mem : (s.deliverHead).mem = s.mem := by
  unfold State.deliverHead; (repeat' split) <;> simp
@[simp] theorem State.deliverHead_freeCount : (s.deliverHead).freeCount = s.freeCount := by
  unfold State.deliverHead; (repeat' split) <;> simp
@[simp] theorem State.deliverHead_pending : (s.deliverHead).pending = s.pending := by
  unfold State.deliverHead; (repeat' split) <;> simp
end

/-! ## issue -/

section
variable (o : Operation) (l : List Operation) (i : OpId)

@[simp] theorem State.issue_inReset : (s.issue o l i).inReset = s.inReset := by
  unfold State.issue; dsimp only; (repeat' split) <;> simp
@[simp] theorem State.issue_part : (s.issue o l i).part = s.part := by
  unfold State.issue; dsimp only; (repeat' split) <;> simp
@[simp] theorem State.issue_mgmt : (s.issue o l i).mgmt = s.mgmt := by
  unfold State.issue; dsimp only; (repeat' split) <;> simp
@[simp] theorem State.issue_time : (s.issue o l i).time = s.time := by
  unfold State.issue; dsimp only; (repeat' split) <;> simp
@[simp] theorem State.issue_rings : (s.issue o l i).rings = s.rings := by
  unfold State.issue; dsimp only; (repeat' split) <;> simp
@[simp] theorem State.issue_awaiting : (s.issue o l i).awaiting = s.awaiting := by
  unfold State.issue; dsimp only; (repeat' split) <;> simp
@[simp] theorem State.issue_pool : (s.issue o l i).pool = s.pool := by
  unfold State.issue; dsimp only; (repeat' split) <;> simp
@[simp] theorem State.issue_events : (s.issue o l i).events = s.events := by
  unfold State.issue; dsimp only; (repeat' split) <;> simp
@[simp] theorem State.issue_freeCount : (s.issue o l i).freeCount = s.freeCount := by
  unfold State.issue; dsimp only; (repeat' split) <;> simp
@[simp] theorem State.issue_pending : (s.issue o l i).pending = s.pending := by
  unfold State.issue; dsimp only; (repeat' split) <;> simp
@[simp] theorem State.ring_issue (ring : RingNo) : (s.issue o l i).ring ring = s.ring ring :=
  State.ring_congr (State.issue_rings s o l i) ring
end

/-! ## considerHead -/

section
@[simp] theorem State.considerHead_inReset : (s.considerHead).inReset = s.inReset := by
  unfold State.considerHead; (repeat' split) <;> simp
@[simp] theorem State.considerHead_mgmt : (s.considerHead).mgmt = s.mgmt := by
  unfold State.considerHead; (repeat' split) <;> simp
@[simp] theorem State.considerHead_time : (s.considerHead).time = s.time := by
  unfold State.considerHead; (repeat' split) <;> simp
@[simp] theorem State.considerHead_awaiting : (s.considerHead).awaiting = s.awaiting := by
  unfold State.considerHead; (repeat' split) <;> simp
@[simp] theorem State.considerHead_pool : (s.considerHead).pool = s.pool := by
  unfold State.considerHead; (repeat' split) <;> simp
@[simp] theorem State.considerHead_freeCount : (s.considerHead).freeCount = s.freeCount := by
  unfold State.considerHead; (repeat' split) <;> simp
@[simp] theorem State.considerHead_pending : (s.considerHead).pending = s.pending := by
  unfold State.considerHead; (repeat' split) <;> simp
end

/-! ## endPassThrough -/

section
variable (t : TxnNo) (x : Txn)

@[simp] theorem State.endPassThrough_inReset : (s.endPassThrough t x).inReset = s.inReset := by
  unfold State.endPassThrough; dsimp only; (repeat' split) <;> simp
@[simp] theorem State.endPassThrough_part : (s.endPassThrough t x).part = s.part := by
  unfold State.endPassThrough; dsimp only; (repeat' split) <;> simp
@[simp] theorem State.endPassThrough_mgmt : (s.endPassThrough t x).mgmt = s.mgmt := by
  unfold State.endPassThrough; dsimp only; (repeat' split) <;> simp
@[simp] theorem State.endPassThrough_time : (s.endPassThrough t x).time = s.time := by
  unfold State.endPassThrough; dsimp only; (repeat' split) <;> simp
@[simp] theorem State.endPassThrough_rings : (s.endPassThrough t x).rings = s.rings := by
  unfold State.endPassThrough; dsimp only; (repeat' split) <;> simp
@[simp] theorem State.endPassThrough_awaiting : (s.endPassThrough t x).awaiting = s.awaiting := by
  unfold State.endPassThrough; dsimp only; (repeat' split) <;> simp
@[simp] theorem State.endPassThrough_pool : (s.endPassThrough t x).pool = s.pool := by
  unfold State.endPassThrough; dsimp only; (repeat' split) <;> simp
@[simp] theorem State.endPassThrough_mem : (s.endPassThrough t x).mem = s.mem := by
  unfold State.endPassThrough; dsimp only; (repeat' split) <;> simp
@[simp] theorem State.endPassThrough_freeCount : (s.endPassThrough t x).freeCount = s.freeCount := by
  unfold State.endPassThrough; dsimp only; (repeat' split) <;> simp
@[simp] theorem State.endPassThrough_pending : (s.endPassThrough t x).pending = s.pending := by
  unfold State.endPassThrough; dsimp only; (repeat' split) <;> simp
@[simp] theorem State.ring_endPassThrough (ring : RingNo) : (s.endPassThrough t x).ring ring = s.ring ring :=
  State.ring_congr (State.endPassThrough_rings s t x) ring
end

/-! ## endRingRequest -/

section
variable (r : RingNo) (t : TxnNo) (x : Txn)

@[simp] theorem State.endRingRequest_inReset : (s.endRingRequest r t x).inReset = s.inReset := by
  unfold State.endRingRequest; (repeat' split) <;> simp
@[simp] theorem State.endRingRequest_part : (s.endRingRequest r t x).part = s.part := by
  unfold State.endRingRequest; (repeat' split) <;> simp
@[simp] theorem State.endRingRequest_mgmt : (s.endRingRequest r t x).mgmt = s.mgmt := by
  unfold State.endRingRequest; (repeat' split) <;> simp
@[simp] theorem State.endRingRequest_time : (s.endRingRequest r t x).time = s.time := by
  unfold State.endRingRequest; (repeat' split) <;> simp
@[simp] theorem State.endRingRequest_awaiting : (s.endRingRequest r t x).awaiting = s.awaiting := by
  unfold State.endRingRequest; (repeat' split) <;> simp
@[simp] theorem State.endRingRequest_mem : (s.endRingRequest r t x).mem = s.mem := by
  unfold State.endRingRequest; (repeat' split) <;> simp
@[simp] theorem State.endRingRequest_freeCount : (s.endRingRequest r t x).freeCount = s.freeCount := by
  unfold State.endRingRequest; (repeat' split) <;> simp
@[simp] theorem State.endRingRequest_pending : (s.endRingRequest r t x).pending = s.pending := by
  unfold State.endRingRequest; (repeat' split) <;> simp
end

/-! ## reportEnd -/

section
variable (t : TxnNo) (p : PartNo) (e : OpEnd)

@[simp] theorem State.reportEnd_inReset : (s.reportEnd t p e).inReset = s.inReset := by
  unfold State.reportEnd; dsimp only; (repeat' split) <;> simp
@[simp] theorem State.reportEnd_mgmt : (s.reportEnd t p e).mgmt = s.mgmt := by
  unfold State.reportEnd; dsimp only; (repeat' split) <;> simp
@[simp] theorem State.reportEnd_time : (s.reportEnd t p e).time = s.time := by
  unfold State.reportEnd; dsimp only; (repeat' split) <;> simp
@[simp] theorem State.reportEnd_awaiting : (s.reportEnd t p e).awaiting = s.awaiting := by
  unfold State.reportEnd; dsimp only; (repeat' split) <;> simp
@[simp] theorem State.reportEnd_mem : (s.reportEnd t p e).mem = s.mem := by
  unfold State.reportEnd; dsimp only; (repeat' split) <;> simp
@[simp] theorem State.reportEnd_freeCount : (s.reportEnd t p e).freeCount = s.freeCount := by
  unfold State.reportEnd; dsimp only; (repeat' split) <;> simp
@[simp] theorem State.reportEnd_pending : (s.reportEnd t p e).pending = s.pending := by
  unfold State.reportEnd; dsimp only; (repeat' split) <;> simp
end

/-! ## takeResponse -/

section
variable (i : BitVec 6) (a : MemoryStatus) (d : List Byte)

@[simp] theorem State.takeResponse_inReset : (s.takeResponse i a d).inReset = s.inReset := by
  unfold State.takeResponse; (repeat' split) <;> simp
@[simp] theorem State.takeResponse_mgmt : (s.takeResponse i a d).mgmt = s.mgmt := by
  unfold State.takeResponse; (repeat' split) <;> simp
@[simp] theorem State.takeResponse_time : (s.takeResponse i a d).time = s.time := by
  unfold State.takeResponse; (repeat' split) <;> simp
@[simp] theorem State.takeResponse_awaiting : (s.takeResponse i a d).awaiting = s.awaiting := by
  unfold State.takeResponse; (repeat' split) <;> simp
@[simp] theorem State.takeResponse_pending : (s.takeResponse i a d).pending = s.pending := by
  unfold State.takeResponse; (repeat' split) <;> simp
end

/-! ## takeTimeouts -/

section
@[simp] theorem State.takeTimeouts_inReset : (s.takeTimeouts).inReset = s.inReset := by
  unfold State.takeTimeouts; simp [foldl_unchanged (p := State.inReset)]
@[simp] theorem State.takeTimeouts_mgmt : (s.takeTimeouts).mgmt = s.mgmt := by
  unfold State.takeTimeouts; simp [foldl_unchanged (p := State.mgmt)]
@[simp] theorem State.takeTimeouts_time : (s.takeTimeouts).time = s.time := by
  unfold State.takeTimeouts; simp [foldl_unchanged (p := State.time)]
@[simp] theorem State.takeTimeouts_awaiting : (s.takeTimeouts).awaiting = s.awaiting := by
  unfold State.takeTimeouts; simp [foldl_unchanged (p := State.awaiting)]
@[simp] theorem State.takeTimeouts_freeCount : (s.takeTimeouts).freeCount = s.freeCount := by
  unfold State.takeTimeouts; simp [foldl_unchanged (p := State.freeCount)]
@[simp] theorem State.takeTimeouts_pending : (s.takeTimeouts).pending = s.pending := by
  unfold State.takeTimeouts; simp [foldl_unchanged (p := State.pending)]
end

/-! ## countLate -/

section
variable (r : RingNo)

@[simp] theorem State.countLate_inReset : (s.countLate r).inReset = s.inReset := by
  unfold State.countLate; simp
@[simp] theorem State.countLate_part : (s.countLate r).part = s.part := by
  unfold State.countLate; simp
@[simp] theorem State.countLate_mgmt : (s.countLate r).mgmt = s.mgmt := by
  unfold State.countLate; simp
@[simp] theorem State.countLate_time : (s.countLate r).time = s.time := by
  unfold State.countLate; simp
@[simp] theorem State.countLate_awaiting : (s.countLate r).awaiting = s.awaiting := by
  unfold State.countLate; simp
@[simp] theorem State.countLate_pool : (s.countLate r).pool = s.pool := by
  unfold State.countLate; simp
@[simp] theorem State.countLate_sys : (s.countLate r).sys = s.sys := by
  unfold State.countLate; simp
@[simp] theorem State.countLate_mem : (s.countLate r).mem = s.mem := by
  unfold State.countLate; simp
@[simp] theorem State.countLate_events : (s.countLate r).events = s.events := by
  unfold State.countLate; simp
@[simp] theorem State.countLate_freeCount : (s.countLate r).freeCount = s.freeCount := by
  unfold State.countLate; simp
@[simp] theorem State.countLate_pending : (s.countLate r).pending = s.pending := by
  unfold State.countLate; simp
@[simp] theorem State.txn_countLate (txn : TxnNo) : (s.countLate r).txn txn = s.txn txn :=
  State.txn_congr (State.countLate_sys s r) txn
end

/-! ## takeExpiries -/

section
@[simp] theorem State.takeExpiries_inReset : (s.takeExpiries).inReset = s.inReset := by
  unfold State.takeExpiries; simp [foldl_unchanged (p := State.inReset)]
@[simp] theorem State.takeExpiries_part : (s.takeExpiries).part = s.part := by
  unfold State.takeExpiries; simp [foldl_unchanged (p := State.part)]
@[simp] theorem State.takeExpiries_mgmt : (s.takeExpiries).mgmt = s.mgmt := by
  unfold State.takeExpiries; simp [foldl_unchanged (p := State.mgmt)]
@[simp] theorem State.takeExpiries_time : (s.takeExpiries).time = s.time := by
  unfold State.takeExpiries; simp [foldl_unchanged (p := State.time)]
@[simp] theorem State.takeExpiries_awaiting : (s.takeExpiries).awaiting = s.awaiting := by
  unfold State.takeExpiries; simp [foldl_unchanged (p := State.awaiting)]
@[simp] theorem State.takeExpiries_mem : (s.takeExpiries).mem = s.mem := by
  unfold State.takeExpiries; simp [foldl_unchanged (p := State.mem)]
@[simp] theorem State.takeExpiries_events : (s.takeExpiries).events = s.events := by
  unfold State.takeExpiries; simp [foldl_unchanged (p := State.events)]
@[simp] theorem State.takeExpiries_freeCount : (s.takeExpiries).freeCount = s.freeCount := by
  unfold State.takeExpiries; simp [foldl_unchanged (p := State.freeCount)]
@[simp] theorem State.takeExpiries_pending : (s.takeExpiries).pending = s.pending := by
  unfold State.takeExpiries; simp [foldl_unchanged (p := State.pending)]
end

/-! ## settleAdvance -/

section
@[simp] theorem State.settleAdvance_inReset : (s.settleAdvance).inReset = s.inReset := by
  unfold State.settleAdvance; (repeat' split) <;> simp
@[simp] theorem State.settleAdvance_mgmt : (s.settleAdvance).mgmt = s.mgmt := by
  unfold State.settleAdvance; (repeat' split) <;> simp
@[simp] theorem State.settleAdvance_time : (s.settleAdvance).time = s.time := by
  unfold State.settleAdvance; (repeat' split) <;> simp
@[simp] theorem State.settleAdvance_awaiting : (s.settleAdvance).awaiting = s.awaiting := by
  unfold State.settleAdvance; (repeat' split) <;> simp
@[simp] theorem State.settleAdvance_pending : (s.settleAdvance).pending = s.pending := by
  unfold State.settleAdvance; (repeat' split) <;> simp
end

/-! ## advanceCount -/

section
@[simp] theorem State.advanceCount_inReset : (s.advanceCount).inReset = s.inReset := by
  unfold State.advanceCount; simp
@[simp] theorem State.advanceCount_part : (s.advanceCount).part = s.part := by
  unfold State.advanceCount; simp
@[simp] theorem State.advanceCount_mgmt : (s.advanceCount).mgmt = s.mgmt := by
  unfold State.advanceCount; simp
@[simp] theorem State.advanceCount_rings : (s.advanceCount).rings = s.rings := by
  unfold State.advanceCount; simp
@[simp] theorem State.advanceCount_awaiting : (s.advanceCount).awaiting = s.awaiting := by
  unfold State.advanceCount; simp
@[simp] theorem State.advanceCount_pool : (s.advanceCount).pool = s.pool := by
  unfold State.advanceCount; simp
@[simp] theorem State.advanceCount_sys : (s.advanceCount).sys = s.sys := by
  unfold State.advanceCount; simp
@[simp] theorem State.advanceCount_mem : (s.advanceCount).mem = s.mem := by
  unfold State.advanceCount; simp
@[simp] theorem State.advanceCount_events : (s.advanceCount).events = s.events := by
  unfold State.advanceCount; simp
@[simp] theorem State.advanceCount_freeCount : (s.advanceCount).freeCount = s.freeCount := by
  unfold State.advanceCount; simp
@[simp] theorem State.advanceCount_pending : (s.advanceCount).pending = s.pending := by
  unfold State.advanceCount; simp
@[simp] theorem State.ring_advanceCount (ring : RingNo) : (s.advanceCount).ring ring = s.ring ring :=
  State.ring_congr (State.advanceCount_rings s) ring
@[simp] theorem State.txn_advanceCount (txn : TxnNo) : (s.advanceCount).txn txn = s.txn txn :=
  State.txn_congr (State.advanceCount_sys s) txn
end

/-! ## refclkCycle -/

section
@[simp] theorem State.refclkCycle_inReset : (s.refclkCycle).inReset = s.inReset := by
  unfold State.refclkCycle; (repeat' split) <;> simp
@[simp] theorem State.refclkCycle_mgmt : (s.refclkCycle).mgmt = s.mgmt := by
  unfold State.refclkCycle; (repeat' split) <;> simp
@[simp] theorem State.refclkCycle_awaiting : (s.refclkCycle).awaiting = s.awaiting := by
  unfold State.refclkCycle; (repeat' split) <;> simp
@[simp] theorem State.refclkCycle_pending : (s.refclkCycle).pending = s.pending := by
  unfold State.refclkCycle; (repeat' split) <;> simp
end

/-! ## refclkCycles -/

section
variable (n : Nat)

@[simp] theorem State.refclkCycles_inReset : (s.refclkCycles n).inReset = s.inReset := by
  induction n generalizing s with
  | zero => rfl
  | succ n ih => simp [State.refclkCycles, ih]
@[simp] theorem State.refclkCycles_mgmt : (s.refclkCycles n).mgmt = s.mgmt := by
  induction n generalizing s with
  | zero => rfl
  | succ n ih => simp [State.refclkCycles, ih]
@[simp] theorem State.refclkCycles_awaiting : (s.refclkCycles n).awaiting = s.awaiting := by
  induction n generalizing s with
  | zero => rfl
  | succ n ih => simp [State.refclkCycles, ih]
@[simp] theorem State.refclkCycles_pending : (s.refclkCycles n).pending = s.pending := by
  induction n generalizing s with
  | zero => rfl
  | succ n ih => simp [State.refclkCycles, ih]
end

/-! ## takeEnable -/

section
variable (r : RingNo)

@[simp] theorem State.takeEnable_inReset : (s.takeEnable r).inReset = s.inReset := by
  unfold State.takeEnable; (repeat' split) <;> simp
@[simp] theorem State.takeEnable_part : (s.takeEnable r).part = s.part := by
  unfold State.takeEnable; (repeat' split) <;> simp
@[simp] theorem State.takeEnable_mgmt : (s.takeEnable r).mgmt = s.mgmt := by
  unfold State.takeEnable; (repeat' split) <;> simp
@[simp] theorem State.takeEnable_time : (s.takeEnable r).time = s.time := by
  unfold State.takeEnable; (repeat' split) <;> simp
@[simp] theorem State.takeEnable_awaiting : (s.takeEnable r).awaiting = s.awaiting := by
  unfold State.takeEnable; (repeat' split) <;> simp
@[simp] theorem State.takeEnable_pool : (s.takeEnable r).pool = s.pool := by
  unfold State.takeEnable; (repeat' split) <;> simp
@[simp] theorem State.takeEnable_sys : (s.takeEnable r).sys = s.sys := by
  unfold State.takeEnable; (repeat' split) <;> simp
@[simp] theorem State.takeEnable_mem : (s.takeEnable r).mem = s.mem := by
  unfold State.takeEnable; (repeat' split) <;> simp
@[simp] theorem State.takeEnable_events : (s.takeEnable r).events = s.events := by
  unfold State.takeEnable; (repeat' split) <;> simp
@[simp] theorem State.takeEnable_freeCount : (s.takeEnable r).freeCount = s.freeCount := by
  unfold State.takeEnable; (repeat' split) <;> simp
@[simp] theorem State.takeEnable_pending : (s.takeEnable r).pending = s.pending := by
  unfold State.takeEnable; (repeat' split) <;> simp
@[simp] theorem State.txn_takeEnable (txn : TxnNo) : (s.takeEnable r).txn txn = s.txn txn :=
  State.txn_congr (State.takeEnable_sys s r) txn
end

/-! ## takePause -/

section
variable (r : RingNo)

@[simp] theorem State.takePause_inReset : (s.takePause r).inReset = s.inReset := by
  unfold State.takePause; (repeat' split) <;> simp
@[simp] theorem State.takePause_part : (s.takePause r).part = s.part := by
  unfold State.takePause; (repeat' split) <;> simp
@[simp] theorem State.takePause_mgmt : (s.takePause r).mgmt = s.mgmt := by
  unfold State.takePause; (repeat' split) <;> simp
@[simp] theorem State.takePause_time : (s.takePause r).time = s.time := by
  unfold State.takePause; (repeat' split) <;> simp
@[simp] theorem State.takePause_awaiting : (s.takePause r).awaiting = s.awaiting := by
  unfold State.takePause; (repeat' split) <;> simp
@[simp] theorem State.takePause_mem : (s.takePause r).mem = s.mem := by
  unfold State.takePause; (repeat' split) <;> simp
@[simp] theorem State.takePause_freeCount : (s.takePause r).freeCount = s.freeCount := by
  unfold State.takePause; (repeat' split) <;> simp
@[simp] theorem State.takePause_pending : (s.takePause r).pending = s.pending := by
  unfold State.takePause; (repeat' split) <;> simp
end

/-! ## takeResume -/

section
variable (r : RingNo)

@[simp] theorem State.takeResume_inReset : (s.takeResume r).inReset = s.inReset := by
  unfold State.takeResume; (repeat' split) <;> simp
@[simp] theorem State.takeResume_part : (s.takeResume r).part = s.part := by
  unfold State.takeResume; (repeat' split) <;> simp
@[simp] theorem State.takeResume_mgmt : (s.takeResume r).mgmt = s.mgmt := by
  unfold State.takeResume; (repeat' split) <;> simp
@[simp] theorem State.takeResume_time : (s.takeResume r).time = s.time := by
  unfold State.takeResume; (repeat' split) <;> simp
@[simp] theorem State.takeResume_awaiting : (s.takeResume r).awaiting = s.awaiting := by
  unfold State.takeResume; (repeat' split) <;> simp
@[simp] theorem State.takeResume_pool : (s.takeResume r).pool = s.pool := by
  unfold State.takeResume; (repeat' split) <;> simp
@[simp] theorem State.takeResume_sys : (s.takeResume r).sys = s.sys := by
  unfold State.takeResume; (repeat' split) <;> simp
@[simp] theorem State.takeResume_mem : (s.takeResume r).mem = s.mem := by
  unfold State.takeResume; (repeat' split) <;> simp
@[simp] theorem State.takeResume_events : (s.takeResume r).events = s.events := by
  unfold State.takeResume; (repeat' split) <;> simp
@[simp] theorem State.takeResume_freeCount : (s.takeResume r).freeCount = s.freeCount := by
  unfold State.takeResume; (repeat' split) <;> simp
@[simp] theorem State.takeResume_pending : (s.takeResume r).pending = s.pending := by
  unfold State.takeResume; (repeat' split) <;> simp
@[simp] theorem State.txn_takeResume (txn : TxnNo) : (s.takeResume r).txn txn = s.txn txn :=
  State.txn_congr (State.takeResume_sys s r) txn
end

/-! ## takeHalt -/

section
variable (r : RingNo)

@[simp] theorem State.takeHalt_inReset : (s.takeHalt r).inReset = s.inReset := by
  unfold State.takeHalt; (repeat' split) <;> simp
@[simp] theorem State.takeHalt_part : (s.takeHalt r).part = s.part := by
  unfold State.takeHalt; (repeat' split) <;> simp
@[simp] theorem State.takeHalt_mgmt : (s.takeHalt r).mgmt = s.mgmt := by
  unfold State.takeHalt; (repeat' split) <;> simp
@[simp] theorem State.takeHalt_time : (s.takeHalt r).time = s.time := by
  unfold State.takeHalt; (repeat' split) <;> simp
@[simp] theorem State.takeHalt_awaiting : (s.takeHalt r).awaiting = s.awaiting := by
  unfold State.takeHalt; (repeat' split) <;> simp
@[simp] theorem State.takeHalt_mem : (s.takeHalt r).mem = s.mem := by
  unfold State.takeHalt; (repeat' split) <;> simp
@[simp] theorem State.takeHalt_freeCount : (s.takeHalt r).freeCount = s.freeCount := by
  unfold State.takeHalt; (repeat' split) <;> simp
@[simp] theorem State.takeHalt_pending : (s.takeHalt r).pending = s.pending := by
  unfold State.takeHalt; (repeat' split) <;> simp
end

/-! ## takeClear -/

section
variable (r : RingNo)

@[simp] theorem State.takeClear_inReset : (s.takeClear r).inReset = s.inReset := by
  unfold State.takeClear; (repeat' split) <;> simp
@[simp] theorem State.takeClear_part : (s.takeClear r).part = s.part := by
  unfold State.takeClear; (repeat' split) <;> simp
@[simp] theorem State.takeClear_mgmt : (s.takeClear r).mgmt = s.mgmt := by
  unfold State.takeClear; (repeat' split) <;> simp
@[simp] theorem State.takeClear_time : (s.takeClear r).time = s.time := by
  unfold State.takeClear; (repeat' split) <;> simp
@[simp] theorem State.takeClear_awaiting : (s.takeClear r).awaiting = s.awaiting := by
  unfold State.takeClear; (repeat' split) <;> simp
@[simp] theorem State.takeClear_mem : (s.takeClear r).mem = s.mem := by
  unfold State.takeClear; (repeat' split) <;> simp
@[simp] theorem State.takeClear_freeCount : (s.takeClear r).freeCount = s.freeCount := by
  unfold State.takeClear; (repeat' split) <;> simp
@[simp] theorem State.takeClear_pending : (s.takeClear r).pending = s.pending := by
  unfold State.takeClear; (repeat' split) <;> simp
end

/-! ## applyOnCommand -/

section
variable (r : RingNo)

@[simp] theorem State.applyOnCommand_inReset : (s.applyOnCommand r).inReset = s.inReset := by
  unfold State.applyOnCommand; dsimp only; (repeat' split) <;> simp
@[simp] theorem State.applyOnCommand_part : (s.applyOnCommand r).part = s.part := by
  unfold State.applyOnCommand; dsimp only; (repeat' split) <;> simp
@[simp] theorem State.applyOnCommand_mgmt : (s.applyOnCommand r).mgmt = s.mgmt := by
  unfold State.applyOnCommand; dsimp only; (repeat' split) <;> simp
@[simp] theorem State.applyOnCommand_time : (s.applyOnCommand r).time = s.time := by
  unfold State.applyOnCommand; dsimp only; (repeat' split) <;> simp
@[simp] theorem State.applyOnCommand_awaiting : (s.applyOnCommand r).awaiting = s.awaiting := by
  unfold State.applyOnCommand; dsimp only; (repeat' split) <;> simp
@[simp] theorem State.applyOnCommand_sys : (s.applyOnCommand r).sys = s.sys := by
  unfold State.applyOnCommand; dsimp only; (repeat' split) <;> simp
@[simp] theorem State.applyOnCommand_mem : (s.applyOnCommand r).mem = s.mem := by
  unfold State.applyOnCommand; dsimp only; (repeat' split) <;> simp
@[simp] theorem State.applyOnCommand_freeCount : (s.applyOnCommand r).freeCount = s.freeCount := by
  unfold State.applyOnCommand; dsimp only; (repeat' split) <;> simp
@[simp] theorem State.applyOnCommand_pending : (s.applyOnCommand r).pending = s.pending := by
  unfold State.applyOnCommand; dsimp only; (repeat' split) <;> simp
@[simp] theorem State.txn_applyOnCommand (txn : TxnNo) : (s.applyOnCommand r).txn txn = s.txn txn :=
  State.txn_congr (State.applyOnCommand_sys s r) txn
end

/-! ## takeApplyNow -/

section
variable (r : RingNo)

@[simp] theorem State.takeApplyNow_inReset : (s.takeApplyNow r).inReset = s.inReset := by
  unfold State.takeApplyNow; dsimp only; (repeat' split) <;> simp
@[simp] theorem State.takeApplyNow_part : (s.takeApplyNow r).part = s.part := by
  unfold State.takeApplyNow; dsimp only; (repeat' split) <;> simp
@[simp] theorem State.takeApplyNow_mgmt : (s.takeApplyNow r).mgmt = s.mgmt := by
  unfold State.takeApplyNow; dsimp only; (repeat' split) <;> simp
@[simp] theorem State.takeApplyNow_time : (s.takeApplyNow r).time = s.time := by
  unfold State.takeApplyNow; dsimp only; (repeat' split) <;> simp
@[simp] theorem State.takeApplyNow_awaiting : (s.takeApplyNow r).awaiting = s.awaiting := by
  unfold State.takeApplyNow; dsimp only; (repeat' split) <;> simp
@[simp] theorem State.takeApplyNow_sys : (s.takeApplyNow r).sys = s.sys := by
  unfold State.takeApplyNow; dsimp only; (repeat' split) <;> simp
@[simp] theorem State.takeApplyNow_mem : (s.takeApplyNow r).mem = s.mem := by
  unfold State.takeApplyNow; dsimp only; (repeat' split) <;> simp
@[simp] theorem State.takeApplyNow_freeCount : (s.takeApplyNow r).freeCount = s.freeCount := by
  unfold State.takeApplyNow; dsimp only; (repeat' split) <;> simp
@[simp] theorem State.takeApplyNow_pending : (s.takeApplyNow r).pending = s.pending := by
  unfold State.takeApplyNow; dsimp only; (repeat' split) <;> simp
@[simp] theorem State.txn_takeApplyNow (txn : TxnNo) : (s.takeApplyNow r).txn txn = s.txn txn :=
  State.txn_congr (State.takeApplyNow_sys s r) txn
end

/-! ## takeSnapshot -/

section
variable (r : RingNo)

@[simp] theorem State.takeSnapshot_inReset : (s.takeSnapshot r).inReset = s.inReset := by
  unfold State.takeSnapshot; simp
@[simp] theorem State.takeSnapshot_part : (s.takeSnapshot r).part = s.part := by
  unfold State.takeSnapshot; simp
@[simp] theorem State.takeSnapshot_mgmt : (s.takeSnapshot r).mgmt = s.mgmt := by
  unfold State.takeSnapshot; simp
@[simp] theorem State.takeSnapshot_time : (s.takeSnapshot r).time = s.time := by
  unfold State.takeSnapshot; simp
@[simp] theorem State.takeSnapshot_awaiting : (s.takeSnapshot r).awaiting = s.awaiting := by
  unfold State.takeSnapshot; simp
@[simp] theorem State.takeSnapshot_pool : (s.takeSnapshot r).pool = s.pool := by
  unfold State.takeSnapshot; simp
@[simp] theorem State.takeSnapshot_sys : (s.takeSnapshot r).sys = s.sys := by
  unfold State.takeSnapshot; simp
@[simp] theorem State.takeSnapshot_mem : (s.takeSnapshot r).mem = s.mem := by
  unfold State.takeSnapshot; simp
@[simp] theorem State.takeSnapshot_events : (s.takeSnapshot r).events = s.events := by
  unfold State.takeSnapshot; simp
@[simp] theorem State.takeSnapshot_freeCount : (s.takeSnapshot r).freeCount = s.freeCount := by
  unfold State.takeSnapshot; simp
@[simp] theorem State.takeSnapshot_pending : (s.takeSnapshot r).pending = s.pending := by
  unfold State.takeSnapshot; simp
@[simp] theorem State.txn_takeSnapshot (txn : TxnNo) : (s.takeSnapshot r).txn txn = s.txn txn :=
  State.txn_congr (State.takeSnapshot_sys s r) txn
end

/-! ## takeCommand -/

section
variable (r : RingNo) (c : BitVec 4)

@[simp] theorem State.takeCommand_inReset : (s.takeCommand r c).inReset = s.inReset := by
  unfold State.takeCommand; (repeat' split) <;> simp
@[simp] theorem State.takeCommand_part : (s.takeCommand r c).part = s.part := by
  unfold State.takeCommand; (repeat' split) <;> simp
@[simp] theorem State.takeCommand_mgmt : (s.takeCommand r c).mgmt = s.mgmt := by
  unfold State.takeCommand; (repeat' split) <;> simp
@[simp] theorem State.takeCommand_time : (s.takeCommand r c).time = s.time := by
  unfold State.takeCommand; (repeat' split) <;> simp
@[simp] theorem State.takeCommand_awaiting : (s.takeCommand r c).awaiting = s.awaiting := by
  unfold State.takeCommand; (repeat' split) <;> simp
@[simp] theorem State.takeCommand_mem : (s.takeCommand r c).mem = s.mem := by
  unfold State.takeCommand; (repeat' split) <;> simp
@[simp] theorem State.takeCommand_freeCount : (s.takeCommand r c).freeCount = s.freeCount := by
  unfold State.takeCommand; (repeat' split) <;> simp
@[simp] theorem State.takeCommand_pending : (s.takeCommand r c).pending = s.pending := by
  unfold State.takeCommand; (repeat' split) <;> simp
end

/-! ## writeStructural -/

section
variable (r : RingNo) (g : StructuralReg) (v : Word)

@[simp] theorem State.writeStructural_inReset : (s.writeStructural r g v).inReset = s.inReset := by
  unfold State.writeStructural; dsimp only; (repeat' split) <;> simp [State.setLockedFlag]
@[simp] theorem State.writeStructural_part : (s.writeStructural r g v).part = s.part := by
  unfold State.writeStructural; dsimp only; (repeat' split) <;> simp [State.setLockedFlag]
@[simp] theorem State.writeStructural_time : (s.writeStructural r g v).time = s.time := by
  unfold State.writeStructural; dsimp only; (repeat' split) <;> simp [State.setLockedFlag]
@[simp] theorem State.writeStructural_awaiting : (s.writeStructural r g v).awaiting = s.awaiting := by
  unfold State.writeStructural; dsimp only; (repeat' split) <;> simp [State.setLockedFlag]
@[simp] theorem State.writeStructural_pool : (s.writeStructural r g v).pool = s.pool := by
  unfold State.writeStructural; dsimp only; (repeat' split) <;> simp [State.setLockedFlag]
@[simp] theorem State.writeStructural_sys : (s.writeStructural r g v).sys = s.sys := by
  unfold State.writeStructural; dsimp only; (repeat' split) <;> simp [State.setLockedFlag]
@[simp] theorem State.writeStructural_mem : (s.writeStructural r g v).mem = s.mem := by
  unfold State.writeStructural; dsimp only; (repeat' split) <;> simp [State.setLockedFlag]
@[simp] theorem State.writeStructural_events : (s.writeStructural r g v).events = s.events := by
  unfold State.writeStructural; dsimp only; (repeat' split) <;> simp [State.setLockedFlag]
@[simp] theorem State.writeStructural_freeCount : (s.writeStructural r g v).freeCount = s.freeCount := by
  unfold State.writeStructural; dsimp only; (repeat' split) <;> simp [State.setLockedFlag]
@[simp] theorem State.writeStructural_pending : (s.writeStructural r g v).pending = s.pending := by
  unfold State.writeStructural; dsimp only; (repeat' split) <;> simp [State.setLockedFlag]
@[simp] theorem State.txn_writeStructural (txn : TxnNo) : (s.writeStructural r g v).txn txn = s.txn txn :=
  State.txn_congr (State.writeStructural_sys s r g v) txn
end

/-! ## applyImmediately -/

section
variable (r : RingNo)

@[simp] theorem State.applyImmediately_inReset : (s.applyImmediately r).inReset = s.inReset := by
  unfold State.applyImmediately; dsimp only; (repeat' split) <;> simp
@[simp] theorem State.applyImmediately_part : (s.applyImmediately r).part = s.part := by
  unfold State.applyImmediately; dsimp only; (repeat' split) <;> simp
@[simp] theorem State.applyImmediately_mgmt : (s.applyImmediately r).mgmt = s.mgmt := by
  unfold State.applyImmediately; dsimp only; (repeat' split) <;> simp
@[simp] theorem State.applyImmediately_time : (s.applyImmediately r).time = s.time := by
  unfold State.applyImmediately; dsimp only; (repeat' split) <;> simp
@[simp] theorem State.applyImmediately_awaiting : (s.applyImmediately r).awaiting = s.awaiting := by
  unfold State.applyImmediately; dsimp only; (repeat' split) <;> simp
@[simp] theorem State.applyImmediately_pool : (s.applyImmediately r).pool = s.pool := by
  unfold State.applyImmediately; dsimp only; (repeat' split) <;> simp
@[simp] theorem State.applyImmediately_sys : (s.applyImmediately r).sys = s.sys := by
  unfold State.applyImmediately; dsimp only; (repeat' split) <;> simp
@[simp] theorem State.applyImmediately_mem : (s.applyImmediately r).mem = s.mem := by
  unfold State.applyImmediately; dsimp only; (repeat' split) <;> simp
@[simp] theorem State.applyImmediately_freeCount : (s.applyImmediately r).freeCount = s.freeCount := by
  unfold State.applyImmediately; dsimp only; (repeat' split) <;> simp
@[simp] theorem State.applyImmediately_pending : (s.applyImmediately r).pending = s.pending := by
  unfold State.applyImmediately; dsimp only; (repeat' split) <;> simp
@[simp] theorem State.txn_applyImmediately (txn : TxnNo) : (s.applyImmediately r).txn txn = s.txn txn :=
  State.txn_congr (State.applyImmediately_sys s r) txn
end

/-! ## writeLive -/

section
variable (r : RingNo) (g : LiveReg) (v : Word)

@[simp] theorem State.writeLive_inReset : (s.writeLive r g v).inReset = s.inReset := by
  unfold State.writeLive; dsimp only; (repeat' split) <;> simp
@[simp] theorem State.writeLive_part : (s.writeLive r g v).part = s.part := by
  unfold State.writeLive; dsimp only; (repeat' split) <;> simp
@[simp] theorem State.writeLive_mgmt : (s.writeLive r g v).mgmt = s.mgmt := by
  unfold State.writeLive; dsimp only; (repeat' split) <;> simp
@[simp] theorem State.writeLive_time : (s.writeLive r g v).time = s.time := by
  unfold State.writeLive; dsimp only; (repeat' split) <;> simp
@[simp] theorem State.writeLive_awaiting : (s.writeLive r g v).awaiting = s.awaiting := by
  unfold State.writeLive; dsimp only; (repeat' split) <;> simp
@[simp] theorem State.writeLive_pool : (s.writeLive r g v).pool = s.pool := by
  unfold State.writeLive; dsimp only; (repeat' split) <;> simp
@[simp] theorem State.writeLive_sys : (s.writeLive r g v).sys = s.sys := by
  unfold State.writeLive; dsimp only; (repeat' split) <;> simp
@[simp] theorem State.writeLive_mem : (s.writeLive r g v).mem = s.mem := by
  unfold State.writeLive; dsimp only; (repeat' split) <;> simp
@[simp] theorem State.writeLive_freeCount : (s.writeLive r g v).freeCount = s.freeCount := by
  unfold State.writeLive; dsimp only; (repeat' split) <;> simp
@[simp] theorem State.writeLive_pending : (s.writeLive r g v).pending = s.pending := by
  unfold State.writeLive; dsimp only; (repeat' split) <;> simp
@[simp] theorem State.txn_writeLive (txn : TxnNo) : (s.writeLive r g v).txn txn = s.txn txn :=
  State.txn_congr (State.writeLive_sys s r g v) txn
end

/-! ## zeroFillCounter -/

section
variable (r : RingNo) (c : FillCounter)

@[simp] theorem State.zeroFillCounter_inReset : (s.zeroFillCounter r c).inReset = s.inReset := by
  unfold State.zeroFillCounter; (repeat' split) <;> simp
@[simp] theorem State.zeroFillCounter_part : (s.zeroFillCounter r c).part = s.part := by
  unfold State.zeroFillCounter; (repeat' split) <;> simp
@[simp] theorem State.zeroFillCounter_mgmt : (s.zeroFillCounter r c).mgmt = s.mgmt := by
  unfold State.zeroFillCounter; (repeat' split) <;> simp
@[simp] theorem State.zeroFillCounter_time : (s.zeroFillCounter r c).time = s.time := by
  unfold State.zeroFillCounter; (repeat' split) <;> simp
@[simp] theorem State.zeroFillCounter_awaiting : (s.zeroFillCounter r c).awaiting = s.awaiting := by
  unfold State.zeroFillCounter; (repeat' split) <;> simp
@[simp] theorem State.zeroFillCounter_pool : (s.zeroFillCounter r c).pool = s.pool := by
  unfold State.zeroFillCounter; (repeat' split) <;> simp
@[simp] theorem State.zeroFillCounter_sys : (s.zeroFillCounter r c).sys = s.sys := by
  unfold State.zeroFillCounter; (repeat' split) <;> simp
@[simp] theorem State.zeroFillCounter_mem : (s.zeroFillCounter r c).mem = s.mem := by
  unfold State.zeroFillCounter; (repeat' split) <;> simp
@[simp] theorem State.zeroFillCounter_events : (s.zeroFillCounter r c).events = s.events := by
  unfold State.zeroFillCounter; (repeat' split) <;> simp
@[simp] theorem State.zeroFillCounter_freeCount : (s.zeroFillCounter r c).freeCount = s.freeCount := by
  unfold State.zeroFillCounter; (repeat' split) <;> simp
@[simp] theorem State.zeroFillCounter_pending : (s.zeroFillCounter r c).pending = s.pending := by
  unfold State.zeroFillCounter; (repeat' split) <;> simp
@[simp] theorem State.txn_zeroFillCounter (txn : TxnNo) : (s.zeroFillCounter r c).txn txn = s.txn txn :=
  State.txn_congr (State.zeroFillCounter_sys s r c) txn
end

/-! ## zeroLateCounter -/

section
variable (r : RingNo)

@[simp] theorem State.zeroLateCounter_inReset : (s.zeroLateCounter r).inReset = s.inReset := by
  unfold State.zeroLateCounter; simp
@[simp] theorem State.zeroLateCounter_part : (s.zeroLateCounter r).part = s.part := by
  unfold State.zeroLateCounter; simp
@[simp] theorem State.zeroLateCounter_mgmt : (s.zeroLateCounter r).mgmt = s.mgmt := by
  unfold State.zeroLateCounter; simp
@[simp] theorem State.zeroLateCounter_time : (s.zeroLateCounter r).time = s.time := by
  unfold State.zeroLateCounter; simp
@[simp] theorem State.zeroLateCounter_awaiting : (s.zeroLateCounter r).awaiting = s.awaiting := by
  unfold State.zeroLateCounter; simp
@[simp] theorem State.zeroLateCounter_pool : (s.zeroLateCounter r).pool = s.pool := by
  unfold State.zeroLateCounter; simp
@[simp] theorem State.zeroLateCounter_sys : (s.zeroLateCounter r).sys = s.sys := by
  unfold State.zeroLateCounter; simp
@[simp] theorem State.zeroLateCounter_mem : (s.zeroLateCounter r).mem = s.mem := by
  unfold State.zeroLateCounter; simp
@[simp] theorem State.zeroLateCounter_events : (s.zeroLateCounter r).events = s.events := by
  unfold State.zeroLateCounter; simp
@[simp] theorem State.zeroLateCounter_freeCount : (s.zeroLateCounter r).freeCount = s.freeCount := by
  unfold State.zeroLateCounter; simp
@[simp] theorem State.zeroLateCounter_pending : (s.zeroLateCounter r).pending = s.pending := by
  unfold State.zeroLateCounter; simp
@[simp] theorem State.txn_zeroLateCounter (txn : TxnNo) : (s.zeroLateCounter r).txn txn = s.txn txn :=
  State.txn_congr (State.zeroLateCounter_sys s r) txn
end

/-! ## clearForReset -/

section
variable (r : RingNo)

@[simp] theorem State.clearForReset_inReset : (s.clearForReset r).inReset = s.inReset := by
  unfold State.clearForReset; (repeat' split) <;> simp
@[simp] theorem State.clearForReset_part : (s.clearForReset r).part = s.part := by
  unfold State.clearForReset; (repeat' split) <;> simp
@[simp] theorem State.clearForReset_mgmt : (s.clearForReset r).mgmt = s.mgmt := by
  unfold State.clearForReset; (repeat' split) <;> simp
@[simp] theorem State.clearForReset_time : (s.clearForReset r).time = s.time := by
  unfold State.clearForReset; (repeat' split) <;> simp
@[simp] theorem State.clearForReset_awaiting : (s.clearForReset r).awaiting = s.awaiting := by
  unfold State.clearForReset; (repeat' split) <;> simp
@[simp] theorem State.clearForReset_mem : (s.clearForReset r).mem = s.mem := by
  unfold State.clearForReset; (repeat' split) <;> simp
@[simp] theorem State.clearForReset_freeCount : (s.clearForReset r).freeCount = s.freeCount := by
  unfold State.clearForReset; (repeat' split) <;> simp
@[simp] theorem State.clearForReset_pending : (s.clearForReset r).pending = s.pending := by
  unfold State.clearForReset; (repeat' split) <;> simp
end

/-! ## takeResetPart -/

section
@[simp] theorem State.takeResetPart_inReset : (s.takeResetPart).inReset = s.inReset := by
  unfold State.takeResetPart; (repeat' split) <;> simp [foldl_unchanged (p := State.inReset)]
@[simp] theorem State.takeResetPart_mgmt : (s.takeResetPart).mgmt = s.mgmt := by
  unfold State.takeResetPart; (repeat' split) <;> simp [foldl_unchanged (p := State.mgmt)]
@[simp] theorem State.takeResetPart_time : (s.takeResetPart).time = s.time := by
  unfold State.takeResetPart; (repeat' split) <;> simp [foldl_unchanged (p := State.time)]
@[simp] theorem State.takeResetPart_awaiting : (s.takeResetPart).awaiting = s.awaiting := by
  unfold State.takeResetPart; (repeat' split) <;> simp [foldl_unchanged (p := State.awaiting)]
@[simp] theorem State.takeResetPart_mem : (s.takeResetPart).mem = s.mem := by
  unfold State.takeResetPart; (repeat' split) <;> simp [foldl_unchanged (p := State.mem)]
@[simp] theorem State.takeResetPart_freeCount : (s.takeResetPart).freeCount = s.freeCount := by
  unfold State.takeResetPart; (repeat' split) <;> simp [foldl_unchanged (p := State.freeCount)]
@[simp] theorem State.takeResetPart_pending : (s.takeResetPart).pending = s.pending := by
  unfold State.takeResetPart; (repeat' split) <;> simp [foldl_unchanged (p := State.pending)]
end

/-! ## writeControl -/

section
variable (v : Word)

@[simp] theorem State.writeControl_inReset : (s.writeControl v).inReset = s.inReset := by
  unfold State.writeControl; (repeat' split) <;> simp [State.clearLost]
@[simp] theorem State.writeControl_mgmt : (s.writeControl v).mgmt = s.mgmt := by
  unfold State.writeControl; (repeat' split) <;> simp [State.clearLost]
@[simp] theorem State.writeControl_time : (s.writeControl v).time = s.time := by
  unfold State.writeControl; (repeat' split) <;> simp [State.clearLost]
@[simp] theorem State.writeControl_awaiting : (s.writeControl v).awaiting = s.awaiting := by
  unfold State.writeControl; (repeat' split) <;> simp [State.clearLost]
@[simp] theorem State.writeControl_mem : (s.writeControl v).mem = s.mem := by
  unfold State.writeControl; (repeat' split) <;> simp [State.clearLost]
@[simp] theorem State.writeControl_freeCount : (s.writeControl v).freeCount = s.freeCount := by
  unfold State.writeControl; (repeat' split) <;> simp [State.clearLost]
@[simp] theorem State.writeControl_pending : (s.writeControl v).pending = s.pending := by
  unfold State.writeControl; (repeat' split) <;> simp [State.clearLost]
end

/-! ## writeReg -/

section
variable (g : Reg) (v : Word)

@[simp] theorem State.writeReg_inReset : (s.writeReg g v).inReset = s.inReset := by
  unfold State.writeReg; (repeat' split) <;> simp [State.setAddrFlag, State.whileRunning, State.setLockedFlag, State.writeDivider, State.writeMemoryTimeout, State.writeLineEnables, State.writePassFault, apply_ite]
@[simp] theorem State.writeReg_awaiting : (s.writeReg g v).awaiting = s.awaiting := by
  unfold State.writeReg; (repeat' split) <;> simp [State.setAddrFlag, State.whileRunning, State.setLockedFlag, State.writeDivider, State.writeMemoryTimeout, State.writeLineEnables, State.writePassFault, apply_ite]
@[simp] theorem State.writeReg_mem : (s.writeReg g v).mem = s.mem := by
  unfold State.writeReg; (repeat' split) <;> simp [State.setAddrFlag, State.whileRunning, State.setLockedFlag, State.writeDivider, State.writeMemoryTimeout, State.writeLineEnables, State.writePassFault, apply_ite]
@[simp] theorem State.writeReg_freeCount : (s.writeReg g v).freeCount = s.freeCount := by
  unfold State.writeReg; (repeat' split) <;> simp [State.setAddrFlag, State.whileRunning, State.setLockedFlag, State.writeDivider, State.writeMemoryTimeout, State.writeLineEnables, State.writePassFault, apply_ite]
@[simp] theorem State.writeReg_pending : (s.writeReg g v).pending = s.pending := by
  unfold State.writeReg; (repeat' split) <;> simp [State.setAddrFlag, State.whileRunning, State.setLockedFlag, State.writeDivider, State.writeMemoryTimeout, State.writeLineEnables, State.writePassFault, apply_ite]
end

/-! ## completeWrite -/

section
variable (a : BitVec 16) (g : Reg) (v : Word)

@[simp] theorem State.completeWrite_inReset : (s.completeWrite a g v).inReset = s.inReset := by
  unfold State.completeWrite; (repeat' split) <;> simp
@[simp] theorem State.completeWrite_awaiting : (s.completeWrite a g v).awaiting = s.awaiting := by
  unfold State.completeWrite; (repeat' split) <;> simp
@[simp] theorem State.completeWrite_mem : (s.completeWrite a g v).mem = s.mem := by
  unfold State.completeWrite; (repeat' split) <;> simp
@[simp] theorem State.completeWrite_freeCount : (s.completeWrite a g v).freeCount = s.freeCount := by
  unfold State.completeWrite; (repeat' split) <;> simp
@[simp] theorem State.completeWrite_pending : (s.completeWrite a g v).pending = s.pending := by
  unfold State.completeWrite; (repeat' split) <;> simp
end

/-! ## writeAt -/

section
variable (g : Reg) (v : Word)

@[simp] theorem State.writeAt_inReset : (s.writeAt g v).inReset = s.inReset := by
  unfold State.writeAt; simp
@[simp] theorem State.writeAt_awaiting : (s.writeAt g v).awaiting = s.awaiting := by
  unfold State.writeAt; simp
@[simp] theorem State.writeAt_mem : (s.writeAt g v).mem = s.mem := by
  unfold State.writeAt; simp
@[simp] theorem State.writeAt_freeCount : (s.writeAt g v).freeCount = s.freeCount := by
  unfold State.writeAt; simp
@[simp] theorem State.writeAt_pending : (s.writeAt g v).pending = s.pending := by
  unfold State.writeAt; simp
end

end Sys2Proof.Machine
end

