-- ==== Sys2Proof/Laws/Table.lean ====
section
/-! SUPPORT. The transaction table under the shared operations: what an entry reads after each, the ready order, the
undelivered counts and the link, and the lowest-numbered free entry. -/

namespace Sys2Proof.Machine

variable (s : State)

/-- A transaction entry as an answer leaves it. -/
def Txn.answered (x : Txn) (status : Status) (data : List Byte) : Txn :=
  { x with stage := .ready, status := some status, data := data }

/-! ## An answer -/

theorem State.txn_answer (t u : TxnNo) (a : Status) (d : List Byte) :
    (s.answer t a d).txn u = if u = t then (s.txn t).map fun x => x.answered a d else s.txn u := by
  unfold State.answer
  split
  · rename_i h
    by_cases hu : u = t
    · simp [hu, h]
    · simp [hu]
  · rename_i x h
    by_cases hu : u = t
    · subst hu
      rw [if_pos rfl, h]
      exact State.txn_setTxn_self s u _
    · simp only [hu, if_false]
      exact State.txn_setTxn_ne s hu _

theorem State.answer_readyOrder_of_some {t : TxnNo} {x : Txn} (h : s.txn t = some x) (a : Status) (d : List Byte) :
    (s.answer t a d).sys.readyOrder = s.sys.readyOrder ++ [t] := by
  simp [State.answer, h]

@[simp] theorem State.answer_undelivered (t : TxnNo) (a : Status) (d : List Byte) :
    (s.answer t a d).sys.undelivered = s.sys.undelivered := by
  unfold State.answer
  split <;> simp

@[simp] theorem State.answer_link (t : TxnNo) (a : Status) (d : List Byte) :
    (s.answer t a d).sys.link = s.sys.link := by
  unfold State.answer
  split <;> simp

/-! ## Parts that join the issue queue -/

theorem State.txn_enqueueParts (t u : TxnNo) (x : Txn) (c : OpClass) :
    (s.enqueueParts t x c).txn u
      = if u = t then some { x with outstanding := x.parts.length, stage := .queued, data := [] }
        else s.txn u := by
  simp only [State.enqueueParts]
  exact State.txn_setTxn s t u _

@[simp] theorem State.enqueueParts_undelivered (t : TxnNo) (x : Txn) (c : OpClass) :
    (s.enqueueParts t x c).sys.undelivered = s.sys.undelivered := rfl

@[simp] theorem State.enqueueParts_readyOrder (t : TxnNo) (x : Txn) (c : OpClass) :
    (s.enqueueParts t x c).sys.readyOrder = s.sys.readyOrder := rfl

@[simp] theorem State.enqueueParts_sysLink (t : TxnNo) (x : Txn) (c : OpClass) :
    (s.enqueueParts t x c).sys.link = s.sys.link := rfl

@[simp] theorem State.enqueueParts_queue (t : TxnNo) (x : Txn) (c : OpClass) :
    (s.enqueueParts t x c).mem.queue = s.mem.queue ++ partOperations t x c := rfl

@[simp] theorem State.enqueueParts_outstanding (t : TxnNo) (x : Txn) (c : OpClass) :
    (s.enqueueParts t x c).mem.outstanding = s.mem.outstanding := rfl

@[simp] theorem State.enqueueParts_memLink (t : TxnNo) (x : Txn) (c : OpClass) :
    (s.enqueueParts t x c).mem.link = s.mem.link := rfl

/-- A request puts at most two operations into the issue queue (R12). -/
theorem partOperations_length (t : TxnNo) (x : Txn) (c : OpClass) : (partOperations t x c).length ≤ 2 := by
  unfold partOperations
  split
  · simp
  · split <;> simp

/-! ## A hold -/

theorem State.txn_grantHold (t u : TxnNo) (x : Txn) (r : RingNo) (w : HoldReason) (i : SlotNo) :
    (s.grantHold t x r w i).txn u = if u = t then some { x with stage := .held, data := [] } else s.txn u := by
  simp only [State.grantHold]
  exact State.txn_setTxn _ t u _

@[simp] theorem State.grantHold_undelivered (t : TxnNo) (x : Txn) (r : RingNo) (w : HoldReason) (i : SlotNo) :
    (s.grantHold t x r w i).sys.undelivered = s.sys.undelivered := rfl

@[simp] theorem State.grantHold_readyOrder (t : TxnNo) (x : Txn) (r : RingNo) (w : HoldReason) (i : SlotNo) :
    (s.grantHold t x r w i).sys.readyOrder = s.sys.readyOrder := rfl

@[simp] theorem State.askHold_undelivered (t : TxnNo) (x : Txn) (r : RingNo) (w : HoldReason) :
    (s.askHold t x r w).sys.undelivered = s.sys.undelivered := by
  unfold State.askHold
  (repeat' split) <;> simp

/-! ## Held requests that are answered -/

@[simp] theorem State.answerHeld_undelivered (c : HoldEntry → Bool) (f : HoldEntry → Status) :
    (s.answerHeld c f).sys.undelivered = s.sys.undelivered := by
  simp [State.answerHeld, foldl_unchanged (p := fun s : State => s.sys.undelivered)]

@[simp] theorem State.answerHeld_sysLink (c : HoldEntry → Bool) (f : HoldEntry → Status) :
    (s.answerHeld c f).sys.link = s.sys.link := by
  simp [State.answerHeld, foldl_unchanged (p := fun s : State => s.sys.link)]

@[simp] theorem State.answerHeld_poolIs (c : HoldEntry → Bool) (f : HoldEntry → Status) :
    (s.answerHeld c f).pool = s.pool.remove (s.pool.entries.filter c) := by
  have : (List.foldl (fun s h => State.answer s h.transaction (f h)) s (s.pool.entries.filter c)).pool = s.pool := by
    simp [foldl_unchanged (p := State.pool)]
  simp only [State.answerHeld, this]

/-- A fold of answers over held entries leaves every other transaction entry as it was. -/
theorem State.txn_foldl_answer_of_not_mem (f : HoldEntry → Status) (u : TxnNo) :
    ∀ (l : List HoldEntry) (s : State), (∀ h ∈ l, h.transaction ≠ u) →
      (l.foldl (fun s h => s.answer h.transaction (f h)) s).txn u = s.txn u
  | [], _, _ => rfl
  | h :: l, s, hl => by
    rw [List.foldl_cons, State.txn_foldl_answer_of_not_mem f u l _ fun g hg => hl g (List.mem_cons_of_mem _ hg),
      State.txn_answer, if_neg fun e => hl h List.mem_cons_self e.symm]

/-- A fold of answers over held entries with transaction entries of their own: each becomes READY with its status, and
they join the ready order in their order. -/
theorem State.foldl_answer_readyOrder (f : HoldEntry → Status) :
    ∀ (l : List HoldEntry) (s : State), (∀ h ∈ l, s.txn h.transaction ≠ none) →
      (l.foldl (fun s h => s.answer h.transaction (f h)) s).sys.readyOrder
        = s.sys.readyOrder ++ l.map HoldEntry.transaction
  | [], _, _ => by simp
  | h :: l, s, hl => by
    obtain ⟨x, hx⟩ := Option.ne_none_iff_exists'.mp (hl h List.mem_cons_self)
    rw [List.foldl_cons, State.foldl_answer_readyOrder f l, State.answer_readyOrder_of_some s hx]
    · simp
    · intro g hg
      rw [State.txn_answer]
      split
      · simp [hx]
      · exact hl g (List.mem_cons_of_mem _ hg)

theorem State.txn_foldl_answer_of_mem (f : HoldEntry → Status) {h : HoldEntry} :
    ∀ (l : List HoldEntry) (s : State), h ∈ l → (l.map HoldEntry.transaction).Nodup →
      (l.foldl (fun s h => s.answer h.transaction (f h)) s).txn h.transaction
        = (s.txn h.transaction).map fun x => x.answered (f h) []
  | [], _, hm, _ => absurd hm List.not_mem_nil
  | g :: l, s, hm, hd => by
    rw [List.map_cons, List.nodup_cons] at hd
    rw [List.foldl_cons]
    rcases List.mem_cons.mp hm with e | hm
    · subst e
      rw [State.txn_foldl_answer_of_not_mem f _ l _ fun k hk e =>
        hd.1 (List.mem_map.mpr ⟨k, hk, e⟩), State.txn_answer, if_pos rfl]
    · rw [State.txn_foldl_answer_of_mem f l _ hm hd.2, State.txn_answer,
        if_neg fun e => hd.1 (List.mem_map.mpr ⟨h, hm, e⟩)]

theorem State.txn_answerHeld (c : HoldEntry → Bool) (f : HoldEntry → Status) (u : TxnNo) :
    (s.answerHeld c f).txn u
      = ((s.pool.entries.filter c).foldl (fun s h => s.answer h.transaction (f h)) s).txn u := rfl

/-- Every held entry of a ring that `answerHoldList` answers has left the pool, and no other has (R103). -/
theorem State.answerHoldList_entries (r : RingNo) (f : HoldEntry → Status) :
    (s.answerHoldList r f).pool.entries = s.pool.entries.filter fun h => h.ring ≠ r := by
  simp only [State.answerHoldList, State.answerHeld_poolIs, HoldPool.remove]
  apply List.filter_congr
  intro h hm
  simp [hm]

/-! ## The masters of the entries -/

/-- The master of the request that an entry holds. -/
def State.masterOf (u : TxnNo) : Option MasterNo := (s.txn u).map Txn.master

theorem State.masterOf_answer (t u : TxnNo) (a : Status) (d : List Byte) :
    (s.answer t a d).masterOf u = s.masterOf u := by
  unfold State.masterOf
  rw [State.txn_answer]
  split
  · rename_i h
    subst h
    cases s.txn u <;> rfl
  · rfl

theorem State.masterOf_setTxn_some {t : TxnNo} {x y : Txn} (h : s.txn t = some x) (hm : y.master = x.master)
    (u : TxnNo) : (s.setTxn t (some y)).masterOf u = s.masterOf u := by
  unfold State.masterOf
  rw [State.txn_setTxn]
  split
  · rename_i e
    subst e
    simp [h, hm]
  · rfl

theorem State.masterOf_answerHeld (c : HoldEntry → Bool) (f : HoldEntry → Status) (u : TxnNo) :
    (s.answerHeld c f).masterOf u = s.masterOf u :=
  foldl_unchanged (fun s (h : HoldEntry) => s.answer h.transaction (f h)) (fun s : State => s.masterOf u)
    (fun s h => State.masterOf_answer s h.transaction u (f h) []) _ _

/-! ## The lowest-numbered free entry -/

theorem State.freeTxn_of_lowest {u : TxnNo} (h : s.txn u = none) (low : ∀ w : TxnNo, w < u → s.txn w ≠ none) :
    s.freeTxn = some u := by
  unfold State.freeTxn
  rw [List.find?_eq_some_iff_getElem]
  refine ⟨by simp [h], u.val, by simp, by simp, fun j hj => ?_⟩
  have := low ⟨j, by omega⟩ (Fin.lt_def.mpr hj)
  simpa [Option.isSome_iff_ne_none] using this

theorem State.freeTxn_spec {u : TxnNo} (h : s.freeTxn = some u) : s.txn u = none := by
  simpa using List.find?_some h

theorem State.freeTxn_isSome (h : ∃ u, s.txn u = none) : ∃ u, s.freeTxn = some u := by
  obtain ⟨u, hu⟩ := h
  unfold State.freeTxn
  exact Option.isSome_iff_exists.mp (List.find?_isSome.mpr ⟨u, by simp, by simp [hu]⟩)

/-- The acceptance conditions of R136 in numbers, but for the free entry. -/
theorem State.accepts_iff (m : MasterNo) :
    s.accepts m = true ↔ s.part = .running ∧ s.sys.undelivered[m.val] < 16
      ∧ s.mem.queue.length + 2 * s.awaiting.length + 2 ≤ 16 ∧ s.pool.released = [] := by
  simp only [State.accepts, Bool.and_eq_true, beq_iff_eq, decide_eq_true_eq, List.isEmpty_iff]
  simp only [State.freeEntries, State.reserved, Config.undeliveredLimit, Config.issueQueueSize]
  constructor
  · rintro ⟨⟨⟨h1, h2⟩, h3⟩, h4⟩
    exact ⟨h1, h2, by omega, h4⟩
  · rintro ⟨h1, h2, h3, h4⟩
    exact ⟨⟨⟨h1, h2⟩, by omega⟩, h4⟩

end Sys2Proof.Machine
end

