-- ==== Sys2Proof/Laws/Rings.lean ====
section
/-! SUPPORT. The rings under the ring engine's operations: what each leaves in the ring it is about, and that it leaves
every other ring as it was. -/

namespace Sys2Proof.Machine

variable (s : State)

/-! ## The level monitor -/

/-- The side after one evaluation (the table of R122). -/
def Ring.evaluatedSide (x : Ring) : Side :=
  match x.side with
  | .low => if x.active.highMark.toNat ≤ x.level then .high else .low
  | .high => if x.level ≤ x.active.lowMark.toNat then .low else .high

theorem State.ring_evaluateLevel (r q : RingNo) :
    (s.evaluateLevel r).ring q
      = if q = r then { s.ring r with side := (s.ring r).evaluatedSide } else s.ring q := by
  have same : ∀ x : Ring, ∀ d, x.side = d → ({ x with side := d } : Ring) = x := by
    rintro x d rfl
    rfl
  unfold State.evaluateLevel Ring.evaluatedSide
  dsimp only
  split <;> rename_i h <;> (try simp only [h]) <;> split <;>
    (try simp only [State.ring_raise, State.ring_setRing]) <;> split <;> rename_i e <;>
    first | rfl | (subst e; exact (same _ _ h).symm)

@[simp] theorem State.ring_evaluateLevel_self (r : RingNo) :
    (s.evaluateLevel r).ring r = { s.ring r with side := (s.ring r).evaluatedSide } := by
  simp [State.ring_evaluateLevel]

/-! ## The ends of a drain and of a clear -/

theorem State.ring_testDrainEnd (r q : RingNo) :
    (s.testDrainEnd r).ring q
      = if q = r ∧ (s.ring r).state = .draining ∧ (s.ring r).fillInFlight = false
        then { s.ring r with state := .paused } else s.ring q := by
  unfold State.testDrainEnd
  dsimp only
  split
  · rename_i h
    simp only [State.ring_raise, State.ring_setRing, h, and_self, and_true]
  · rename_i h
    simp [h]

theorem State.ring_testDrainEnd_self (r : RingNo) :
    (s.testDrainEnd r).ring r = { s.ring r with
      state := if (s.ring r).state = .draining ∧ (s.ring r).fillInFlight = false then .paused
        else (s.ring r).state } := by
  rw [State.ring_testDrainEnd]
  by_cases h : (s.ring r).state = .draining ∧ (s.ring r).fillInFlight = false
  · rw [if_pos ⟨rfl, h⟩, if_pos h]
  · rw [if_neg fun k => h k.2, if_neg h]

theorem State.ring_testClearEnd (r q : RingNo) :
    (s.testClearEnd r).ring q
      = if q = r ∧ (s.ring r).state = .clearing ∧ s.ringBusy r = false then (s.ring r).endClear else s.ring q := by
  unfold State.testClearEnd
  split
  · rename_i h
    simp only [State.ring_raise, State.ring_markCleared, State.ring_setRing, h, and_self, and_true]
  · rename_i h
    simp [h]

/-- The clear-end test does nothing to a ring that is not CLEARING (R37). -/
theorem State.testClearEnd_of_ne {r : RingNo} (h : (s.ring r).state ≠ .clearing) : s.testClearEnd r = s := by
  simp [State.testClearEnd, h]

/-- The completion test of the part reset does nothing while the part is RUNNING (R172). -/
theorem State.testResetCompletion_of_running (h : s.part = .running) : s.testResetCompletion = s := by
  simp [State.testResetCompletion, State.resetMayComplete, h]

theorem State.ring_beginClear (r q : RingNo) :
    (s.beginClear r).ring q
      = if q = r then
          if ((s.answerHoldList r fun _ => .aborted).setRing r
              { s.ring r with state := .clearing, outcome := .accepted }).ringBusy r = false
          then { (s.ring r).endClear with outcome := .accepted }
          else { s.ring r with state := .clearing, outcome := .accepted }
        else s.ring q := by
  unfold State.beginClear
  rw [State.ring_testClearEnd]
  by_cases hq : q = r
  · subst hq
    simp only [State.ring_setRing_self, true_and, State.ring_answerHoldList, if_true]
    split
    · simp only [Ring.endClear]
      split <;> rfl
    · rfl
  · simp [hq, State.ring_setRing_ne]

theorem State.ring_enterHalted (r q : RingNo) :
    (s.enterHalted r).ring q = if q = r then { s.ring r with state := .halted } else s.ring q := by
  unfold State.enterHalted
  simp only [State.ring_raise, State.ring_answerHoldList, State.ring_setRing]

/-! ## Absorption -/

/-- The ring's fields that an absorption's end can change beyond its scoreboard and frontier: the state, the active set
with its pending flag and outcome, the side (R24, R31, R64). -/
theorem State.ring_finishWriteEnd_ne {r q : RingNo} (h : q ≠ r) (f0 : Nat) :
    (s.finishWriteEnd r f0).ring q = s.ring q := by
  unfold State.finishWriteEnd
  dsimp only
  (repeat' split) <;>
    simp [State.ring_testDrainEnd, State.ring_evaluateLevel, State.ring_setRing, h]

theorem Ring.attemptApply_state (x : Ring) : x.attemptApply.state = x.state := by
  unfold Ring.attemptApply
  split <;> rfl

theorem Ring.attemptApply_fill (x : Ring) : x.attemptApply.fill = x.fill := by
  unfold Ring.attemptApply
  split <;> rfl

/-- An apply attempt changes the active set, the pending flag and the outcome alone. -/
theorem Ring.attemptApply_eq (x : Ring) :
    x.attemptApply = { x with active := x.attemptApply.active, pending := x.attemptApply.pending
                              outcome := x.attemptApply.outcome } := by
  unfold Ring.attemptApply
  split <;> rfl

/-- The fields that an apply attempt and an evaluation can change: the active set, the pending flag, the outcome and
the side. -/
def Ring.Retermed (x y : Ring) : Prop :=
  ∃ act pend out side, y = { x with active := act, pending := pend, outcome := out, side := side }

theorem Ring.Retermed.refl (x : Ring) : x.Retermed x := ⟨_, _, _, _, rfl⟩

theorem Ring.Retermed.trans {x y z : Ring} (h : x.Retermed y) (k : y.Retermed z) : x.Retermed z := by
  obtain ⟨_, _, _, _, rfl⟩ := h
  obtain ⟨_, _, _, _, rfl⟩ := k
  exact ⟨_, _, _, _, rfl⟩

theorem Ring.retermed_attemptApply (x : Ring) : x.Retermed x.attemptApply := by
  rw [Ring.attemptApply_eq]
  exact ⟨_, _, _, x.side, rfl⟩

theorem State.retermed_evaluateLevel (r : RingNo) : (s.ring r).Retermed ((s.evaluateLevel r).ring r) := by
  rw [State.ring_evaluateLevel_self]
  exact ⟨_, _, _, _, rfl⟩

/-- After the end of an absorption the ring's scoreboards, frontiers and counters are as they were; the state is PAUSED
where a drain ends and is as it was otherwise (R24, R31, R64). -/
theorem State.ring_finishWriteEnd_self (r : RingNo) (f0 : Nat) :
    ∃ act pend out side, (s.finishWriteEnd r f0).ring r = { s.ring r with
      active := act, pending := pend, outcome := out, side := side
      state := if (s.ring r).state = .draining ∧ (s.ring r).fillInFlight = false then .paused
        else (s.ring r).state } := by
  unfold State.finishWriteEnd
  extract_lets x moved boundary applied s1 s2 s3 s4
  have h1 : x.Retermed (s1.ring r) := by
    simp only [s1]
    split
    · rw [State.ring_setRing_self]
      exact Ring.retermed_attemptApply x
    · exact Ring.Retermed.refl x
  have h2 : x.Retermed (s2.ring r) := by
    simp only [s2]
    split
    · exact h1.trans (State.retermed_evaluateLevel s1 r)
    · exact h1
  have h3 : x.Retermed (s3.ring r) := by
    simp only [s3]
    split
    · simpa using h2
    · exact h2
  have h4 : x.Retermed (s4.ring r) := by
    simp only [s4]
    split
    · simpa using h3
    · exact h3
  obtain ⟨act, pend, out, side, h⟩ := h4
  refine ⟨act, pend, out, side, ?_⟩
  rw [State.ring_testDrainEnd_self, h]
  rfl

/-- One absorption of the fill side (R62 to R64): what it leaves in the ring. -/
theorem State.ring_absorbWrites_self (r : RingNo) :
    ∃ act pend out side, (s.absorbWrites r).ring r =
      { s.ring r with
        fill := (absorbFill (s.ring r).F (s.ring r).poison (s.ring r).fill).fill
        F := (absorbFill (s.ring r).F (s.ring r).poison (s.ring r).fill).F
        poison := (absorbFill (s.ring r).F (s.ring r).poison (s.ring r).fill).poison
        active := act, pending := pend, outcome := out, side := side
        state := if (absorbFill (s.ring r).F (s.ring r).poison (s.ring r).fill).refused then .halted
          else if (s.ring r).state = .draining
            ∧ ((absorbFill (s.ring r).F (s.ring r).poison (s.ring r).fill).fill.any fun e => e.state = .inFlight)
              = false then .paused
          else (s.ring r).state } := by
  unfold State.absorbWrites
  extract_lets x a s1 s2 s3
  have h2 : s2.ring r = { x with fill := a.fill, F := a.F, poison := a.poison } := by
    have : s2.rings = s1.rings := by
      simp [s2, foldl_unchanged (p := State.rings)]
    rw [State.ring_congr this]
    exact State.ring_setRing_self s r _
  have h3 : s3.ring r = { x with
      fill := a.fill, F := a.F, poison := a.poison, state := if a.refused then .halted else x.state } := by
    simp only [s3]
    split
    · rw [State.ring_enterHalted, if_pos rfl, h2]
    · exact h2
  obtain ⟨act, pend, out, side, h⟩ := State.ring_finishWriteEnd_self s3 r x.F
  refine ⟨act, pend, out, side, h.trans ?_⟩
  rw [h3]
  simp only [Ring.fillInFlight, x, a]
  cases (absorbFill (s.ring r).F (s.ring r).poison (s.ring r).fill).refused <;> simp

theorem State.ring_absorbWrites_ne {r q : RingNo} (h : q ≠ r) : (s.absorbWrites r).ring q = s.ring q := by
  unfold State.absorbWrites
  extract_lets x a s1 s2 s3
  rw [State.ring_finishWriteEnd_ne _ h]
  have h2 : s2.ring q = s.ring q := by
    have : s2.rings = s1.rings := by
      simp [s2, foldl_unchanged (p := State.rings)]
    rw [State.ring_congr this]
    exact State.ring_setRing_ne s h _
  simp only [s3]
  split
  · rw [State.ring_enterHalted, if_neg h, h2]
  · exact h2

/-- One absorption of the drain side (R86): what it leaves in the ring. -/
theorem State.ring_absorbReads_self (r : RingNo) :
    ∃ side, (s.absorbReads r).ring r =
        { s.ring r with
          drain := (absorbDrain (s.ring r).D (s.ring r).drain).1
          D := (absorbDrain (s.ring r).D (s.ring r).drain).2
          side := side }
      ∧ ((absorbDrain (s.ring r).D (s.ring r).drain).2 = (s.ring r).D → side = (s.ring r).side) := by
  unfold State.absorbReads
  dsimp only
  split
  · exact ⟨_, by rw [State.ring_setRing_self], fun _ => rfl⟩
  · rename_i h
    refine ⟨?side, ?_, fun e => absurd e h⟩
    case side =>
      exact Ring.evaluatedSide { s.ring r with
        drain := (absorbDrain (s.ring r).D (s.ring r).drain).1
        D := (absorbDrain (s.ring r).D (s.ring r).drain).2 }
    split <;> simp

theorem State.ring_absorbReads_ne {r q : RingNo} (h : q ≠ r) : (s.absorbReads r).ring q = s.ring q := by
  unfold State.absorbReads
  dsimp only
  (repeat' split) <;> simp [State.ring_evaluateLevel, State.ring_setRing_ne, h]

/-! ## Admissions -/

/-- The write reach after an admission with end e (R54, step 2). -/
def Ring.reachAfter (x : Ring) (e : Nat) : Nat := if IsBeyond x.A x.W e then e else x.W

/-- The keep floor that an admission with end e asks for (R54, step 3). -/
def Ring.floorAfter (x : Ring) (e : Nat) : Nat := positionBefore x.A (x.reachAfter e) x.C

theorem Ring.placeWrite_eq (x : Ring) (t : TxnNo) (e : Extent) :
    x.placeWrite t e = { x with
      fill := insertEntry x.A x.F { extent := e, state := .inFlight, transactions := [t] } x.fill
      W := x.reachAfter e.stop
      K := if IsBeyond x.A x.K (x.floorAfter e.stop) then x.floorAfter e.stop else x.K
      poison := if IsBeyond x.A x.K (x.floorAfter e.stop) then retirePoison x.A (x.floorAfter e.stop) x.poison
        else x.poison } := by
  unfold Ring.placeWrite Ring.floorAfter Ring.reachAfter
  generalize (if IsBeyond x.A x.W e.stop then e.stop else x.W) = reach
  dsimp only
  by_cases h : IsBeyond x.A x.K (positionBefore x.A reach x.C)
  · rw [if_pos (show IsBeyond (Ring.A { x with
      fill := insertEntry x.A x.F { extent := e, state := .inFlight, transactions := [t] } x.fill, W := reach })
      x.K (positionBefore x.A reach x.C) from h), if_pos h, if_pos h]
    rfl
  · rw [if_neg (show ¬ IsBeyond (Ring.A { x with
      fill := insertEntry x.A x.F { extent := e, state := .inFlight, transactions := [t] } x.fill, W := reach })
      x.K (positionBefore x.A reach x.C) from h), if_neg h, if_neg h]

/-- A consume part ends where the read ends, beyond D, and begins at the read's start or at D (R70). -/
theorem consumePart_some {x : Ring} {cls : RequestClass} {e c : Extent} (h : consumePart x cls e = some c) :
    cls = .consume ∧ c.stop = e.stop ∧ IsBeyond x.A x.D c.stop
      ∧ (c.start = e.start ∧ IsAtOrAhead x.A x.D e.start ∨ c.start = x.D ∧ ¬ IsAtOrAhead x.A x.D e.start) := by
  unfold consumePart at h
  split at h
  · rename_i hc
    split at h
    · rename_i ha
      cases h
      exact ⟨hc.1, rfl, hc.2, Or.inl ⟨rfl, ha⟩⟩
    · rename_i ha
      cases h
      exact ⟨hc.1, rfl, hc.2, Or.inr ⟨rfl, ha⟩⟩
  · cases h

/-- A read with no consume part is no consuming read, or its end is at or behind D (R70). -/
theorem consumePart_none {x : Ring} {cls : RequestClass} {e : Extent} :
    consumePart x cls e = none ↔ cls ≠ .consume ∨ ¬ IsBeyond x.A x.D e.stop := by
  unfold consumePart
  split
  · rename_i hc
    split <;> simp [hc.1, hc.2]
  · rename_i hc
    simpa [imp_iff_not_or] using hc

/-- A placed read changes the drain scoreboard alone (R82). -/
theorem Ring.placeRead_eq (x : Ring) (t : TxnNo) (part : Option Extent) (state : EntryState) :
    x.placeRead t part state = { x with drain := match part with
      | some c => insertEntry x.A x.D { extent := c, state := state, transactions := [t] } x.drain
      | none => x.drain } := by
  cases part <;> rfl

/-! ## Landings -/

theorem State.ring_endWrite_ne {r q : RingNo} (h : q ≠ r) (t : TxnNo) (ok : Bool) :
    (s.endWrite r t ok).ring q = s.ring q := by
  unfold State.endWrite
  dsimp only
  (repeat' split) <;> simp [State.ring_absorbWrites_ne, State.ring_setRing_ne, h]

theorem State.ring_endRead_ne {r q : RingNo} (h : q ≠ r) (t : TxnNo) (ok : Bool) (d : List Byte) :
    (s.endRead r t ok d).ring q = s.ring q := by
  unfold State.endRead
  dsimp only
  (repeat' split) <;> simp [State.ring_absorbReads_ne, State.ring_setRing_ne, h]

end Sys2Proof.Machine
end

