-- ==== Sys2Proof/Laws/Ports.lean ====
section
/-! SUPPORT. The two ports: what an acceptance leaves, what a memory response is taken for, and what the report of an end
does to its owner. -/

namespace Sys2Proof.Machine

variable (s : State)

/-! ## Equal field by field -/

/-- Two states with equal fields are equal. -/
theorem State.eq_of_fields {s t : State} (h1 : t.inReset = s.inReset) (h2 : t.part = s.part) (h3 : t.mgmt = s.mgmt)
    (h4 : t.time = s.time) (h5 : t.rings = s.rings) (h6 : t.awaiting = s.awaiting) (h7 : t.pool = s.pool)
    (h8 : t.sys = s.sys) (h9 : t.mem = s.mem) (h10 : t.events = s.events) (h11 : t.freeCount = s.freeCount)
    (h12 : t.pending = s.pending) : t = s := by
  cases s
  cases t
  simp_all

/-! ## Acceptance -/

/-- The state in which an accepted request is checked and classified: its entry filled and its master's count raised,
and nothing else changed but the free-value counter (R137). -/
theorem State.acceptInto_base (q : Request) (u : TxnNo) : ∃ b : State,
    s.acceptInto u q = (if q.length.toNat = 0 ∨ Config.longestRequest < q.length.toNat ∨ s.tagClash q = true
      then b.answer u .protocol else b.decodeRequest u (acceptedTxn q (s.requestData q)))
    ∧ (∀ w, b.txn w = if w = u then some (acceptedTxn q (s.requestData q)) else s.txn w)
    ∧ (∀ m : MasterNo, b.sys.undelivered[m.val]
        = if m = q.master then s.sys.undelivered[m.val] + 1 else s.sys.undelivered[m.val])
    ∧ b.sys.readyOrder = s.sys.readyOrder ∧ b.sys.link = s.sys.link
    ∧ b.inReset = s.inReset ∧ b.part = s.part ∧ b.mgmt = s.mgmt ∧ b.time = s.time ∧ b.rings = s.rings
    ∧ b.awaiting = s.awaiting ∧ b.pool = s.pool ∧ b.mem = s.mem ∧ b.events = s.events
    ∧ b.freeCount = (s.countRequest q).freeCount ∧ b.pending = s.pending := by
  refine ⟨_, rfl, ?_, ?_, ?_⟩
  · intro w
    simp [State.txn_setTxn]
  · intro m
    rw [State.undelivered_setUndelivered]
    split
    · rename_i h
      subst h
      simp
    · simp
  · simp

/-- A classification records its outcome in the request's own entry and keeps what acceptance recorded there. -/
theorem State.decodeRequest_facts (u : TxnNo) (x : Txn) :
    (∃ y, (s.decodeRequest u x).txn u = some y ∧ y.master = x.master ∧ y.tag = x.tag ∧ y.direction = x.direction
        ∧ y.address = x.address ∧ y.length = x.length ∧ y.cleared = x.cleared)
    ∧ (∀ w, w ≠ u → (s.decodeRequest u x).txn w = s.txn w)
    ∧ (s.decodeRequest u x).sys.undelivered = s.sys.undelivered
    ∧ (s.decodeRequest u x).sys.link = s.sys.link
    ∧ (s.decodeRequest u x).mem.outstanding = s.mem.outstanding
    ∧ (s.decodeRequest u x).mem.link = s.mem.link := by
  unfold State.decodeRequest
  have rejected : ∀ a : Status, ∀ x' : Txn, x'.master = x.master → x'.tag = x.tag → x'.direction = x.direction →
      x'.address = x.address → x'.length = x.length → x'.cleared = x.cleared →
      (∃ y, ((s.setTxn u (some x')).answer u a).txn u = some y ∧ y.master = x.master ∧ y.tag = x.tag
        ∧ y.direction = x.direction ∧ y.address = x.address ∧ y.length = x.length ∧ y.cleared = x.cleared)
      ∧ ∀ w, w ≠ u → ((s.setTxn u (some x')).answer u a).txn w = s.txn w := by
    intro a x' h1 h2 h3 h4 h5 h6
    constructor
    · refine ⟨x'.answered a [], ?_, h1, h2, h3, h4, h5, h6⟩
      rw [State.txn_answer, if_pos rfl, State.txn_setTxn_self]
      rfl
    · intro w hw
      rw [State.txn_answer, if_neg hw, State.txn_setTxn, if_neg hw]
  split
  · obtain ⟨h1, h2⟩ := rejected .protocol { x with cls := some .reject } rfl rfl rfl rfl rfl rfl
    exact ⟨h1, h2, by simp, by simp, by simp, by simp⟩
  · obtain ⟨h1, h2⟩ := rejected .refused { x with cls := some .reject } rfl rfl rfl rfl rfl rfl
    exact ⟨h1, h2, by simp, by simp, by simp, by simp⟩
  · refine ⟨⟨_, State.txn_setTxn_self _ _ _, rfl, rfl, rfl, rfl, rfl, rfl⟩, ?_, rfl, rfl, rfl, rfl⟩
    intro w hw
    exact State.txn_setTxn_ne _ hw _
  · refine ⟨⟨_, (State.txn_enqueueParts _ _ _ _ _).trans (if_pos rfl), rfl, rfl, rfl, rfl, rfl, rfl⟩, ?_, by simp,
      by simp, by simp, by simp⟩
    intro w hw
    rw [State.txn_enqueueParts, if_neg hw]

/-! ## Memory responses -/

/-- The record that an id names, where the ids in use are distinct. -/
theorem find_outstanding {l : List Outstanding} (hd : (l.map Outstanding.id).Nodup) {o : Outstanding} (ho : o ∈ l)
    {n : Nat} (hn : o.id.val = n) : l.find? (fun p => p.id.val = n) = some o := by
  induction l with
  | nil => cases ho
  | cons a l ih =>
    rw [List.map_cons, List.nodup_cons] at hd
    rw [List.find?_cons]
    rcases List.mem_cons.mp ho with e | ho
    · subst e
      simp [hn]
    · have : a.id.val ≠ n := fun e => hd.1 (List.mem_map.mpr ⟨o, ho, Fin.ext (hn.trans e.symm)⟩)
      simp [this, ih hd.2 ho]

theorem State.linkBytes_exact {n : Nat} {d : List Byte} (h : d.length = n) : s.linkBytes n d = d := by
  simp [State.linkBytes, ← h]

theorem State.countMissing_exact {n : Nat} {d : List Byte} (h : d.length = n) : s.countMissing n d = s := by
  simp [State.countMissing, ← h]

/-- How an operation ends by a response that carries what it promises (R157). -/
def Outstanding.endBy (o : Outstanding) (status : MemoryStatus) (data : List Byte) : OpEnd :=
  match status, o.direction with
  | .ok, .read => .ok data
  | .ok, .write => .ok []
  | .error, _ => .failed

/-- A response to a live operation frees its id and reports its end (R157, R160). -/
theorem State.takeResponse_live {o : Outstanding} {id : BitVec 6} {status : MemoryStatus} {data : List Byte}
    (hd : (s.mem.outstanding.map Outstanding.id).Nodup) (ho : o ∈ s.mem.outstanding) (hn : o.id.val = id.toNat)
    (hc : o.condition = .live) (hl : o.direction = .read → status = .ok → data.length = o.length) :
    s.takeResponse id status data
      = (s.freeOperation o.id).reportEnd o.transaction o.part (o.endBy status data) := by
  unfold State.takeResponse
  rw [find_outstanding hd ho hn]
  simp only [hc, Outstanding.endBy]
  cases status <;> cases hdir : o.direction <;> simp only []
  rw [State.countMissing_exact _ (hl hdir rfl), State.linkBytes_exact _ (hl hdir rfl)]

/-- A response that no operation awaits, and one to an orphan, reach no owner (R157, R159). -/
theorem State.takeResponse_unused {id : BitVec 6} (status : MemoryStatus) (data : List Byte)
    (h : ∀ o ∈ s.mem.outstanding, o.id.val ≠ id.toNat) : s.takeResponse id status data = s := by
  unfold State.takeResponse
  have : s.mem.outstanding.find? (fun o => o.id.val = id.toNat) = none := by simpa using h
  rw [this]

theorem State.takeResponse_orphan {o : Outstanding} {id : BitVec 6} (status : MemoryStatus) (data : List Byte)
    (hd : (s.mem.outstanding.map Outstanding.id).Nodup) (ho : o ∈ s.mem.outstanding) (hn : o.id.val = id.toNat)
    (hc : o.condition = .orphan) : s.takeResponse id status data = s.freeOperation o.id := by
  unfold State.takeResponse
  rw [find_outstanding hd ho hn]
  simp only [hc]

/-! ## The report of an end -/

/-- The report of an end to a ring request (R160): the entry takes the part's end, the last part ends the request, and
the clear-end test and the completion test follow. -/
theorem State.reportEnd_ring {t : TxnNo} {p : PartNo} {e : OpEnd} {x : Txn} {r : RingNo} (hx : s.txn t = some x)
    (hr : x.ring = some r) :
    s.reportEnd t p e = State.testResetCompletion (State.testClearEnd
      (if (x.endPart p e).outstanding = 0 then
        (s.setTxn t (some (x.endPart p e))).endRingRequest r t (x.endPart p e)
      else s.setTxn t (some (x.endPart p e))) r) := by
  have : (x.endPart p e).ring = some r := hr
  unfold State.reportEnd
  simp only [hx, this]

/-- The report of an end to a pass-through request (R143, R160). -/
theorem State.reportEnd_passThrough {t : TxnNo} {p : PartNo} {e : OpEnd} {x : Txn} (hx : s.txn t = some x)
    (hr : x.ring = none) :
    s.reportEnd t p e = State.testResetCompletion
      (if (x.endPart p e).outstanding = 0 then
        (s.setTxn t (some (x.endPart p e))).endPassThrough t (x.endPart p e)
      else s.setTxn t (some (x.endPart p e))) := by
  have : (x.endPart p e).ring = none := hr
  unfold State.reportEnd
  simp only [hx, this]

/-- An absorption answers no request but held ones. -/
theorem State.txn_absorbWrites {r : RingNo} {t : TxnNo} (hp : ∀ h ∈ s.pool.entries, h.transaction ≠ t) :
    (s.absorbWrites r).txn t = s.txn t := by
  unfold State.absorbWrites
  extract_lets x a s1 s2 s3
  simp only [State.txn_finishWriteEnd, s3]
  have h2s : s2.sys = s.sys := by simp [s2, foldl_unchanged (p := State.sys), s1]
  have h2p : s2.pool = s.pool := by simp [s2, foldl_unchanged (p := State.pool), s1]
  split
  · unfold State.enterHalted
    simp only [State.txn_raise, State.answerHoldList, State.txn_answerHeld]
    rw [State.txn_foldl_answer_of_not_mem]
    · exact State.txn_congr h2s t
    · intro h hh
      simp only [State.setRing_pool, h2p] at hh
      exact hp h (List.mem_of_mem_filter hh)
  · exact State.txn_congr h2s t

theorem State.txn_markCleared (r : RingNo) (t : TxnNo) :
    (s.markCleared r).txn t = (s.txn t).map fun x => x.markCleared r := by
  simp [State.markCleared, State.txn, mapPlaces_get]

/-- The clear-end test marks ACCEPTED requests of the ring and touches no other entry (R37). -/
theorem State.txn_testClearEnd_of_stage {r : RingNo} {t : TxnNo} {x : Txn} (hx : s.txn t = some x)
    (h : x.stage ≠ .accepted) : (s.testClearEnd r).txn t = some x := by
  unfold State.testClearEnd
  split
  · simp only [State.txn_raise, State.txn_markCleared, State.txn_setRing, hx, Option.map_some]
    simp [Txn.markCleared, h]
  · exact hx

/-! ## The issue queue -/

/-- A ring is busy when an operation of it is queued or live (R36, R37). -/
theorem State.ringBusy_iff (r : RingNo) :
    s.ringBusy r = true ↔ (∃ o ∈ s.mem.queue, s.ringOf o.transaction = some r)
      ∨ ∃ o ∈ s.mem.outstanding, o.condition = .live ∧ s.ringOf o.transaction = some r := by
  simp [State.ringBusy]

/-- Whether a ring is busy depends on the memory port and on the rings of the transaction entries alone. -/
theorem State.ringBusy_congr {s t : State} (r : RingNo) (hm : t.mem = s.mem) (h : ∀ u, t.ringOf u = s.ringOf u) :
    t.ringBusy r = s.ringBusy r := by
  unfold State.ringBusy
  simp only [hm, h]

/-- An answer keeps the ring of every request. -/
theorem State.ringOf_answer (t u : TxnNo) (a : Status) (d : List Byte) : (s.answer t a d).ringOf u = s.ringOf u := by
  unfold State.ringOf
  rw [State.txn_answer]
  split
  · rename_i h
    subst h
    cases s.txn u <;> rfl
  · rfl

theorem State.ringOf_answerHeld (c : HoldEntry → Bool) (f : HoldEntry → Status) (u : TxnNo) :
    (s.answerHeld c f).ringOf u = s.ringOf u :=
  foldl_unchanged (fun s (h : HoldEntry) => s.answer h.transaction (f h)) (fun s : State => s.ringOf u)
    (fun s h => State.ringOf_answer s h.transaction u (f h) []) _ _

theorem State.guarded_iff (a n : Nat) :
    s.guarded a n = true ↔ ∃ r, (s.ring r).state ≠ .off ∧
      RangesMeet a n (s.ring r).structural.memoryBase.toNat (s.ring r).C := by
  simp only [State.guarded, List.any_eq_true]
  constructor
  · rintro ⟨x, hx, hc⟩
    rw [Vector.mem_toList_iff, Vector.mem_iff_getElem] at hx
    obtain ⟨i, hi, rfl⟩ := hx
    exact ⟨⟨i, hi⟩, by simpa [State.ring, Ring.C] using hc⟩
  · rintro ⟨r, h1, h2⟩
    exact ⟨s.ring r, by simp [State.ring], by simpa [h1, Ring.C] using h2⟩

/-- The lowest-numbered free id (R156). -/
theorem MemoryPort.freeId_of_lowest {p : MemoryPort} {i : OpId} (hi : ∀ o ∈ p.outstanding, o.id ≠ i)
    (low : ∀ j, j < i → ∃ o ∈ p.outstanding, o.id = j) : p.freeId = some i := by
  unfold MemoryPort.freeId
  rw [List.find?_eq_some_iff_getElem]
  refine ⟨by simpa using hi, i.val, by simp, by simp, fun j hj => ?_⟩
  obtain ⟨o, ho, hs⟩ := low ⟨j, by omega⟩ (Fin.lt_def.mpr hj)
  simp only [List.getElem_finRange, Bool.not_eq_true', List.all_eq_false]
  exact ⟨o, ho, by simp [hs]⟩

theorem MemoryPort.freeId_spec {p : MemoryPort} {i : OpId} (h : p.freeId = some i) :
    ∀ o ∈ p.outstanding, o.id ≠ i := by
  simpa using List.find?_some h

/-- The lowest-numbered free slot (R91). -/
theorem HoldPool.freeSlot_of_lowest {p : HoldPool} {i : SlotNo} (hi : ∀ h ∈ p.entries, h.slot ≠ i)
    (low : ∀ j, j < i → ∃ h ∈ p.entries, h.slot = j) : p.freeSlot = some i := by
  unfold HoldPool.freeSlot
  rw [List.find?_eq_some_iff_getElem]
  refine ⟨by simpa using hi, i.val, by simp, by simp, fun j hj => ?_⟩
  obtain ⟨o, ho, hs⟩ := low ⟨j, by omega⟩ (Fin.lt_def.mpr hj)
  simp only [List.getElem_finRange, Bool.not_eq_true', List.all_eq_false]
  exact ⟨o, ho, by simp [hs]⟩

theorem HoldPool.freeSlot_spec {p : HoldPool} {i : SlotNo} (h : p.freeSlot = some i) :
    ∀ g ∈ p.entries, g.slot ≠ i := by
  simpa using List.find?_some h

end Sys2Proof.Machine
end

