-- ==== Sys2Proof/Laws/Management.lean ====
section
/-! SUPPORT. The management port: the address after a register, a complete write of each kind of register, the event lines
bit by bit, the aligned pointer. -/

namespace Sys2Proof.Machine

variable (s : State)

/-! ## Addresses -/

/-- The register after one of a ring control block (10.7). -/
theorem controlAddress_add_four (r : RingNo) (o : Nat) :
    controlAddress r o + 4 = controlAddress r (o + 4) := by
  unfold controlAddress
  apply BitVec.eq_of_toNat_eq
  simp
  omega

theorem alignPointer_eq_mask (a : BitVec 16) : alignPointer a = a &&& 0xFFFC := by
  unfold alignPointer
  apply BitVec.eq_of_getLsbD_eq
  intro i hi
  simp only [BitVec.getLsbD_append, BitVec.getLsbD_extractLsb', BitVec.getLsbD_and]
  interval_cases i <;> simp

/-! ## Complete writes -/

/-- A complete write of a command register while the part is RUNNING (R28). -/
theorem State.writeAt_command (r : RingNo) (v : Word) (h0 : s.inReset = false) (hp : s.part = .running) :
    s.writeAt (.command r) v = (s.takeCommand r (v.extractLsb' 0 4)).acknowledge (controlAddress r 0x28) := by
  simp only [State.writeAt, State.completeWrite, h0, Bool.false_eq_true, if_false, State.writeReg,
    State.whileRunning, hp, if_true, Reg.address]
  rw [controlAddress_add_four]

/-- A complete write outside reset: the register's own effect, then the acknowledgement (R164). -/
theorem State.writeAt_of_running (reg : Reg) (v : Word) (h0 : s.inReset = false) :
    s.writeAt reg v = (s.writeReg reg v).acknowledge (reg.address + 4) := by
  simp [State.writeAt, State.completeWrite, h0]

theorem State.whileRunning_running (f : State → State) (h : s.part = .running) : s.whileRunning f = f s := by
  simp [State.whileRunning, h]

theorem State.whileRunning_resetting (f : State → State) (h : s.part = .resetting) :
    s.whileRunning f = s.setLockedFlag := by
  simp [State.whileRunning, h]

/-! ## The event lines -/

/-- One line (R130). -/
theorem lineLevels_bit (records : List EventRecord) (enables : BitVec 4) {n : Nat} (h : n < 4) :
    (lineLevels records enables).getLsbD n = true
      ↔ enables.getLsbD n = true ∧ ∃ e ∈ records, e.line.toNat = n := by
  have : (lineLevels records enables).getLsbD n = lineLevel records enables n := by
    unfold lineLevels
    simp only [BitVec.getLsbD_append, BitVec.getLsbD_ofBool]
    interval_cases n <;> simp
  rw [this]
  simp [lineLevel]

@[simp] theorem lineLevels_nil (enables : BitVec 4) : lineLevels [] enables = 0 := by
  simp [lineLevels, lineLevel]

end Sys2Proof.Machine
end

