-- ==== Sys2Proof/Laws/Pool.lean ====
section
/-! SUPPORT. The hold pool's form under its operations: a grant, a removal and a release scan each keep one entry to a slot
and the released list the RELEASED entries. -/

namespace Sys2Proof.Machine

variable (s : State)

/-- Entries with distinct slots are told apart by their slots. -/
theorem HoldPool.WellFormed.eq_of_slot {p : HoldPool} (w : p.WellFormed) {g h : HoldEntry} (hg : g ∈ p.entries)
    (hh : h ∈ p.entries) (e : g.slot = h.slot) : g = h :=
  List.inj_on_of_nodup_map w.slots hg hh e

/-- Entries that leave the pool take their slots and their places in the released list with them (R91, R103). -/
theorem HoldPool.WellFormed.remove {p : HoldPool} (w : p.WellFormed) {gone : List HoldEntry}
    (sub : ∀ g ∈ gone, g ∈ p.entries) : (p.remove gone).WellFormed where
  slots := w.slots.sublist (List.filter_sublist.map _)
  released := w.released.sublist List.filter_sublist
  listed := by
    intro i
    simp only [HoldPool.remove, List.mem_filter, w.listed]
    constructor
    · rintro ⟨⟨h, hm, hs, hr⟩, hn⟩
      refine ⟨h, ⟨hm, ?_⟩, hs, hr⟩
      simp only [Bool.not_eq_true', List.any_eq_false] at hn
      simp only [Bool.not_eq_true', List.contains_eq_mem, decide_eq_false_iff_not]
      intro hg
      exact hn h hg (by simp [hs])
    · rintro ⟨h, ⟨hm, hn⟩, hs, hr⟩
      refine ⟨⟨h, hm, hs, hr⟩, ?_⟩
      simp only [Bool.not_eq_true', List.contains_eq_mem, decide_eq_false_iff_not] at hn
      simp only [Bool.not_eq_true', List.any_eq_false, decide_eq_true_eq]
      intro g hg e
      exact hn (w.eq_of_slot (sub g hg) hm (e.trans hs.symm) ▸ hg)

/-- A WAITING entry in a free slot joins the pool (R94). -/
theorem HoldPool.WellFormed.grant {p : HoldPool} (w : p.WellFormed) {h : HoldEntry} (free : ∀ g ∈ p.entries, g.slot ≠ h.slot)
    (hw : h.state = .waiting) (stores : Vector (List Byte) 32) :
    HoldPool.WellFormed { entries := p.entries ++ [h], released := p.released, stores := stores } where
  slots := by
    simp only [List.map_append, List.map_cons, List.map_nil]
    rw [List.nodup_append]
    refine ⟨w.slots, by simp, ?_⟩
    intro a ha b hb
    obtain ⟨g, hg, rfl⟩ := List.mem_map.mp ha
    rw [List.mem_singleton] at hb
    exact hb ▸ free g hg
  released := w.released
  listed := by
    intro i
    rw [w.listed]
    constructor
    · rintro ⟨g, hg, h1, h2⟩
      exact ⟨g, List.mem_append_left _ hg, h1, h2⟩
    · rintro ⟨g, hg, h1, h2⟩
      rcases List.mem_append.mp hg with hg | hg
      · exact ⟨g, hg, h1, h2⟩
      · rw [List.mem_singleton] at hg
        rw [hg, hw] at h2
        cases h2

/-- A release scan keeps the pool's form (R97). -/
theorem State.releaseScan_wellFormed (w : s.pool.WellFormed) (r : RingNo) (examines : HoldReason → Bool) :
    (s.releaseScan r examines).pool.WellFormed := by
  unfold State.releaseScan
  extract_lets ripe
  have hwait : ∀ h, ripe h = true → h.state = .waiting := by
    intro h hr
    simp only [ripe, Bool.and_eq_true, decide_eq_true_eq] at hr
    exact hr.1.1.2
  have hslot : ∀ h : HoldEntry, (if ripe h then { h with state := .released } else h).slot = h.slot := by
    intro h
    split <;> rfl
  refine ⟨?_, ?_, ?_⟩
  · simp only [List.map_map]
    have : (HoldEntry.slot ∘ fun h => if ripe h = true then { h with state := .released } else h) = HoldEntry.slot :=
      funext hslot
    rw [this]
    exact w.slots
  · rw [List.nodup_append]
    refine ⟨w.released, w.slots.sublist (List.filter_sublist.map _), ?_⟩
    intro i hi j hj e
    subst e
    obtain ⟨h, hm, hs, hr⟩ := (w.listed i).mp hi
    obtain ⟨g, hg, hgs⟩ := List.mem_map.mp hj
    rw [List.mem_filter] at hg
    have := w.eq_of_slot hm hg.1 (hs.trans hgs.symm)
    subst this
    rw [hwait h hg.2] at hr
    cases hr
  · intro i
    simp only [List.mem_append, List.mem_map, List.mem_filter, w.listed]
    constructor
    · rintro (⟨h, hm, hs, hr⟩ | ⟨h, ⟨hm, hr⟩, hs⟩)
      · refine ⟨_, ⟨h, hm, rfl⟩, (hslot h).trans hs, ?_⟩
        split
        · rfl
        · exact hr
      · exact ⟨_, ⟨h, hm, rfl⟩, (hslot h).trans hs, by rw [if_pos hr]⟩
    · rintro ⟨g, ⟨h, hm, rfl⟩, hs, hr⟩
      rw [hslot] at hs
      by_cases hc : ripe h = true
      · exact Or.inr ⟨h, ⟨hm, hc⟩, hs⟩
      · rw [if_neg hc] at hr
        exact Or.inl ⟨h, hm, hs, hr⟩

end Sys2Proof.Machine
end

