-- ==== Sys2Proof/Laws/Position.lean ====
section
/-! SUPPORT. Distances and byte ranges in plain arithmetic: with these, a claim about positions below the aperture size
is linear. -/

namespace Sys2Proof.Machine

theorem distance_lt {A : Nat} (h : 0 < A) (x y : Nat) : distance A x y < A := Nat.mod_lt _ h

/-- A distance is congruent to y - x modulo A (R9). -/
theorem distance_congruent {A x y : Nat} (h : 0 < A) : ∃ n : Int, (distance A x y : Int) = y - x + n * A := by
  have hx := Nat.mod_lt x h
  have e1 := Nat.div_add_mod x A
  have e2 := Nat.div_add_mod (y + (A - x % A)) A
  refine ⟨1 + (x / A : Nat) - ((y + (A - x % A)) / A : Nat), ?_⟩
  have e3 : ((A - x % A : Nat) : Int) = A - (x % A : Nat) := by omega
  have e4 : (x : Int) = A * (x / A : Nat) + (x % A : Nat) := by exact_mod_cast e1.symm
  have e5 : ((y : Int) + (A - (x % A : Nat))) = A * ((y + (A - x % A)) / A : Nat) + (distance A x y : Nat) := by
    rw [← e3]
    exact_mod_cast e2.symm
  linarith [e4, e5]

/-- A distance between positions below A, case by case. -/
theorem distance_of_lt {A x y : Nat} (hx : x < A) (hy : y < A) :
    distance A x y = if x ≤ y then y - x else y + A - x := by
  unfold distance
  rw [Nat.mod_eq_of_lt hx]
  split
  · have : y + (A - x) = A + (y - x) := by omega
    rw [this, Nat.add_mod_left, Nat.mod_eq_of_lt (by omega)]
  · rw [Nat.mod_eq_of_lt (by omega)]
    omega

/-- A distance between positions below A, as a linear fact. -/
theorem distance_spec {A x y : Nat} (hx : x < A) (hy : y < A) :
    distance A x y < A ∧ (x + distance A x y = y ∨ x + distance A x y = y + A) := by
  rw [distance_of_lt hx hy]
  split <;> omega

/-- A signed distance by the half of the aperture that its distance falls in (R8). -/
theorem signedDistance_cases (A x y : Nat) :
    signedDistance A x y = distance A x y ∧ 2 * distance A x y < A
      ∨ signedDistance A x y = (distance A x y : Int) - A ∧ A ≤ 2 * distance A x y := by
  unfold signedDistance
  split
  · exact Or.inl ⟨rfl, by assumption⟩
  · exact Or.inr ⟨rfl, by omega⟩

/-- The position n bytes after x, for a step of less than A. -/
theorem positionAfter_of_lt {A x n : Nat} (hx : x < A) (hn : n < A) :
    positionAfter A x n = if x + n < A then x + n else x + n - A := by
  unfold positionAfter
  split
  · rename_i h
    exact Nat.mod_eq_of_lt h
  · rw [Nat.mod_eq_sub_mod (by omega), Nat.mod_eq_of_lt (by omega)]

/-- The position n bytes before x, for a step of less than A. -/
theorem positionBefore_of_lt {A x n : Nat} (hx : x < A) (hn : n < A) :
    positionBefore A x n = if n ≤ x then x - n else x + A - n := by
  unfold positionBefore
  rw [Nat.mod_eq_of_lt hn]
  split
  · have : x + (A - n) = A + (x - n) := by omega
    rw [this, Nat.add_mod_left, Nat.mod_eq_of_lt (by omega)]
  · rw [Nat.mod_eq_of_lt (by omega)]
    omega

/-- A signed distance lies in [-A/2, A/2) (R8). -/
theorem signedDistance_range {A : Nat} (h : 0 < A) (x y : Nat) :
    -(A : Int) ≤ 2 * signedDistance A x y ∧ 2 * signedDistance A x y < A := by
  have := distance_lt h x y
  unfold signedDistance
  split <;> constructor <;> omega

/-- Two byte ranges meet exactly when some address lies in both. -/
theorem rangesMeet_iff {a n b m : Nat} :
    RangesMeet a n b m ↔ ∃ k, (a ≤ k ∧ k < a + n) ∧ (b ≤ k ∧ k < b + m) := by
  unfold RangesMeet
  constructor
  · intro h
    exact ⟨max a b, by omega, by omega⟩
  · rintro ⟨k, h1, h2⟩
    omega

theorem rangesMeet_symm {a n b m : Nat} (h : RangesMeet a n b m) : RangesMeet b m a n := by
  unfold RangesMeet at *
  omega

theorem Structural.apertureSize_pos (c : Structural) : 0 < c.apertureSize := by
  unfold Structural.apertureSize
  positivity

theorem Structural.capacity_pos (c : Structural) : 0 < c.capacity := by
  unfold Structural.capacity
  positivity

end Sys2Proof.Machine
end

