-- ==== Sys2Proof/Laws/Words.lean ====
section
/-! SUPPORT. A field of a word that is written as an append of fields, and the bytes of words: what the layouts of 10.7
need. -/

namespace Sys2Proof.Machine

/-- A field that lies in the high part of an append is that part's field. -/
theorem extract_append_high {a b : Nat} (x : BitVec a) (y : BitVec b) (start n : Nat) (h : b ≤ start) :
    (x ++ y).extractLsb' start n = x.extractLsb' (start - b) n := by
  ext i hi
  simp only [BitVec.getElem_extractLsb', BitVec.getLsbD_append]
  rw [if_neg (by omega)]
  congr 1
  omega

/-- A field that lies in the low part of an append is that part's field. -/
theorem extract_append_low {a b : Nat} (x : BitVec a) (y : BitVec b) (start n : Nat) (h : start + n ≤ b) :
    (x ++ y).extractLsb' start n = y.extractLsb' start n := by
  ext i hi
  simp only [BitVec.getElem_extractLsb', BitVec.getLsbD_append]
  rw [if_pos (by omega)]

/-- The whole of a vector is its field of full width. -/
theorem extract_whole {a : Nat} (x : BitVec a) : x.extractLsb' 0 a = x := by
  ext i hi
  simp

/-- Two neighbouring fields, put together, are the field that spans them. -/
theorem extract_append_extract {a : Nat} (x : BitVec a) (start m n : Nat) :
    x.extractLsb' (start + n) m ++ x.extractLsb' start n = x.extractLsb' start (m + n) := by
  ext i hi
  simp only [BitVec.getElem_append, BitVec.getElem_extractLsb']
  split
  · rfl
  · congr 1
    omega

/-- The four bytes of a data word are the bytes it was made of. -/
theorem wordBytes_wordOfBytes (a b c d : Byte) : wordBytes (wordOfBytes a b c d) = [a, b, c, d] := by
  unfold wordBytes wordOfBytes
  simp (disch := omega) only [extract_append_low, extract_append_high, extract_whole, Nat.sub_self, Nat.reduceSub]

@[simp] theorem wordBytes_length (w : Word) : (wordBytes w).length = 4 := rfl

/-- Data survive their packing into words: the unused bytes of the last word are ignored on receipt. -/
theorem bytesOfWords_dataWords (l : List Byte) : bytesOfWords l.length (dataWords l) = l := by
  unfold bytesOfWords
  induction l using dataWords.induct with
  | case1 => rfl
  | case2 a => simp [dataWords, wordBytes_wordOfBytes]
  | case3 a b => simp [dataWords, wordBytes_wordOfBytes]
  | case4 a b c => simp [dataWords, wordBytes_wordOfBytes]
  | case5 a b c d rest ih => simp [dataWords, wordBytes_wordOfBytes, ih]

/-- What a full store holds after a copy to its start: the copied bytes first, and its length as before. -/
theorem storeOver_take (data old : List Byte) : (storeOver data old).take data.length = data := by
  simp [storeOver]

theorem storeOver_length (data old : List Byte) (h : data.length ≤ old.length) :
    (storeOver data old).length = old.length := by
  simp [storeOver]
  omega

end Sys2Proof.Machine
end

