-- ==== Sys2Proof/Tests/Slice0.lean ====
section
/-! SUPPORT. The tests: the checks of well-formed commands, one small step of each command, and for every statement that
has hypotheses a state and operands that meet them, each clause at a boundary value of its own. -/

namespace Sys2Proof.Tests

open Sys2Proof Sys2Proof.Machine

/-! ## Ill-formed commands are refused by the check -/

def readRequest (address : Address) (length : BitVec 9) : Request :=
  { master := 1, tag := 5, direction := .read, address := address, length := length, data := [] }

def writeRequest (address : Address) (length : BitVec 9) (data : List Byte) : Request :=
  { master := 1, tag := 5, direction := .write, address := address, length := length, data := data }

theorem test_wellFormed_accepts :
    (Instr.requestAcceptance (writeRequest 0 2 [7, 8])).WellFormed = true
    ∧ (Instr.requestAcceptance (readRequest 0 2)).WellFormed = true
    ∧ (Instr.memoryResponse 3 .ok [1]).WellFormed = true ∧ (Instr.undefinedCommand 0 8).WellFormed = true
    ∧ (Instr.registerRead 0x58 4).WellFormed = true := by decide

theorem test_wellFormed_refuses_write_with_missing_bytes :
    (Instr.requestAcceptance (writeRequest 0 3 [7, 8])).WellFormed = false := by decide

theorem test_wellFormed_refuses_read_with_data :
    (Instr.requestAcceptance { readRequest 0 1 with data := [7] }).WellFormed = false := by decide

theorem test_wellFormed_refuses_long_response :
    (Instr.memoryResponse 3 .ok (List.replicate 257 0)).WellFormed = false := by decide +kernel

theorem test_wellFormed_refuses_error_with_data :
    (Instr.memoryResponse 3 .error [0]).WellFormed = false := by decide

theorem test_wellFormed_refuses_named_command_code :
    (Instr.undefinedCommand 0 7).WellFormed = false ∧ (Instr.undefinedCommand 0 1).WellFormed = false := by decide

theorem test_wellFormed_refuses_empty_and_whole_groups :
    (Instr.partialWriteEnd 0x58 (.insideGroup [])).WellFormed = false
    ∧ (Instr.partialWriteEnd 0x58 (.insideGroup [1, 2, 3, 4])).WellFormed = false := by decide

theorem test_wellFormed_refuses_long_cut : (Instr.heldInReset [1, 2, 3, 4]).WellFormed = false := by decide

theorem test_wellFormed_refuses_read_of_no_byte_and_of_five :
    (Instr.registerRead 0x58 0).WellFormed = false ∧ (Instr.registerRead 0x58 5).WellFormed = false := by decide

/-! ## Small states -/

/-- The structural words of ring 0 in chapter 1, as 10.8 writes them, with S0 = 0. -/
def structural : Structural :=
  ((Structural.reset.write .apertureBaseLow 0x40100000).write .highBytesAndExponents 0x0C140002).write
    .memoryBaseLow 0x80003000

def live : Live :=
  { Live.reset with
    producerMask := 0x2, consumerMask := 0x2, observerMask := 0x4
    highMark := 0x600, lowMark := 0x200, holdTimeout := 100, holdQuota := 1 }

/-- A ring ready for ENABLE. -/
def ready : Ring := { Ring.reset with structural := structural, active := live, shadow := live }

/-- An ACTIVE ring with 100h committed bytes. -/
def active : Ring := { ready with state := .active, D := 0x100, F := 0x200, W := 0x200, K := 0 }

def withRing (x : Ring) : State := State.reset.setRing 0 x

/-- The aperture of `structural` begins here. -/
def base : Nat := 0x240100000

def rangeOf (start stop : Nat) : Option Extent := some { start := start, stop := stop }

/-- A request of ring 0 in stage ACCEPTED. -/
def request (direction : Direction) (start stop : Nat) : Txn :=
  { master := 1, tag := 5, direction := direction, address := BitVec.ofNat 40 (base + start)
    length := stop - start
    cls := none, ring := some 0, range := rangeOf start stop, cleared := false
    parts := foldParts structural start (stop - start)
    outstanding := 0
    data := match direction with
      | .write => List.replicate (stop - start) 7
      | .read => []
    stage := .accepted, status := none }

/-- A ring 0 whose oldest admission is a request's. -/
def admitting (x : Ring) (t : Txn) : State :=
  { (withRing x).setTxn 0 (some t) with awaiting := [0] }

/-- A held request of ring 0 in slot 0. -/
def heldEntry (reason : HoldReason) (state : HoldState) : HoldEntry :=
  { slot := 0, transaction := 0, ring := 0, reason := reason, deadline := 0, state := state }

def holding (x : Ring) (t : Txn) (h : HoldEntry) (released : List SlotNo) : State :=
  { (withRing x).setTxn 0 (some { t with stage := .held }) with
    pool := { HoldPool.reset with entries := [h], released := released } }

/-- A live operation of transaction entry 0, under id 0. -/
def operation (direction : Direction) : Outstanding :=
  { id := 0, transaction := 0, part := .first, direction := direction, address := 0x80003200, length := 4
    deadline := 0, condition := .live }

/-- One operation out for a request. -/
def waitingFor (x : Ring) (t : Txn) (o : Outstanding) : State :=
  { (withRing x).setTxn 0 (some { t with stage := .outstanding, outstanding := 1, data := [] }) with
    mem := { MemoryPort.reset with outstanding := [o] } }

/-- A pass-through read of four bytes. -/
def passThrough : Txn :=
  { request .read 0 4 with
    address := 0x1000, ring := none, range := none, cls := some .pass
    parts := [{ memAddress := 0x1000, length := 4, range := none, result := .pending, data := [] }] }

def record (sequence : BitVec 8) : EventRecord :=
  { sequence := sequence, kind := .filled, ring := some 0, line := 2, afterLoss := false, position := some 0x600
    count := .absent }

/-- Two records and every line enabled. -/
def withRecords : State :=
  { State.reset with
    mgmt := { Management.reset with lineEnables := 0xF }
    events := { EventQueue.reset with records := [record 0, record 1], nextSequence := 2, lines := 0x4 } }

/-- The next state of a command; the state itself for a command that stops. -/
def after (c : Instr) (s : State) : State :=
  match exec c s with
  | .next t => t
  | _ => s

/-! ## One small step of each command -/

theorem test_decodeTableWord : decodeTableWord 32 0 = none ∧ decodeTableWord 8 1 = none := by decide

theorem test_step_takes_front :
    (match step { State.reset with pending := [.lostFlagClear, .tick 1] } with
      | .next t => t.pending == [.tick 1] && t.mgmt.pointer == 0x008
      | _ => false) = true := by decide

theorem test_hardwareReset : (after (.hardwareReset true false) (withRing active)).mgmt.i2cAddress = 0x5A
    ∧ ((after (.hardwareReset true false) (withRing active)).ring 0).state = .off := by decide

theorem test_heldInReset : (after (.heldInReset [1]) withRecords).events.lines = 0
    ∧ (after (.enable 0) (after (.heldInReset []) (withRing ready))).inReset = true := by decide

theorem test_requestAcceptance_ringWrite :
    (after (.requestAcceptance (writeRequest (BitVec.ofNat 40 (base + 0x200)) 2 [7, 8])) (withRing active)).awaiting = [0]
    := by decide

theorem test_requestAcceptance_straddling :
    ((after (.requestAcceptance (readRequest (BitVec.ofNat 40 (base - 1)) 2)) (withRing active)).txn 0).bind Txn.status
      = some .protocol := by decide

theorem test_writeAdmission_admits :
    ((after .writeAdmission (admitting active (request .write 0x200 0x204))).ring 0).W = 0x204
    ∧ (after .writeAdmission (admitting active (request .write 0x200 0x204))).mem.queue.length = 1 := by decide

theorem test_writeAdmission_behind_F :
    ((after .writeAdmission (admitting active (request .write 0x1FF 0x203))).txn 0).bind Txn.status
      = some .overlap := by decide

theorem test_readAdmission_admits :
    ((after .readAdmission (admitting active (request .read 0x100 0x104))).ring 0).drain.length = 1 := by decide

theorem test_readAdmission_holds :
    ((after .readAdmission (admitting active (request .read 0x200 0x204))).txn 0).map Txn.stage = some .held
    ∧ (after .readAdmission (admitting active (request .read 0x200 0x204))).pool.entries.map HoldEntry.deadline = [100]
    := by decide

theorem test_reAdmission :
    (after .reAdmission (holding active (request .read 0x100 0x104) (heldEntry .underrun .released) [0])).pool.entries
      = []
    ∧ (after .reAdmission (holding active (request .read 0x100 0x104)
        (heldEntry .underrun .released) [0])).mem.queue.length = 1 := by decide

theorem test_issueHead :
    (after .issueHead (after .readAdmission (admitting active (request .read 0x100 0x104)))).mem.outstanding.map
      (fun o => (o.id.val, o.address, o.deadline)) = [(0, 0x80003100, 1000)] := by decide

theorem test_memoryResponse :
    ((after (.memoryResponse 0 .ok [1, 2, 3, 4]) (waitingFor active passThrough (operation .read))).txn 0).map
      (fun x => (x.status, x.data)) = some (some .done, [1, 2, 3, 4]) := by decide

theorem test_memoryResponse_poison :
    ((after (.memoryResponse 0 .error []) (waitingFor
      { active with fill := [{ extent := ⟨0x200, 0x204⟩, state := .inFlight, transactions := [0] }] }
      (request .write 0x200 0x204) (operation .write))).ring 0).poison = [⟨0x200, 0x204⟩] := by decide

theorem test_drainEnd : ((after (.drainEnd 0) (withRing { active with state := .draining })).ring 0).state = .paused
    := by decide

theorem test_clearEnd : ((after (.clearEnd 0) (withRing { active with state := .clearing })).ring 0).state = .off
    ∧ (after (.clearEnd 0) (withRing { active with state := .clearing })).events.records.map EventRecord.kind
      = [.cleared] := by decide

theorem test_tick :
    (after (.tick 1) { State.reset with time := { Timebase.reset with cycles := 99 } }).time.count = 1
    ∧ (after (.tick 2) State.reset).time.cycles = 2 := by decide

theorem test_expiry :
    ((after .expiry (holding active (request .read 0x200 0x204) (heldEntry .underrun .waiting) [])).txn 0).bind
      Txn.status = some .late
    ∧ ((after .expiry (holding active (request .read 0x200 0x204) (heldEntry .underrun .waiting) [])).ring 0).lateCount
      = 1 := by decide

theorem test_responseTimeout :
    (after .responseTimeout (waitingFor active passThrough (operation .read))).mem.outstanding.map Outstanding.condition
      = [.orphan]
    ∧ (after .responseTimeout (waitingFor active passThrough (operation .read))).events.records.map EventRecord.kind
      = [.passFault] := by decide

theorem test_responseDelivery :
    (after .responseDelivery (after (.memoryResponse 0 .ok [1, 2, 3, 4])
      (waitingFor active passThrough (operation .read)))).sys.link
      = some { master := 1, tag := 5, status := .done, data := [1, 2, 3, 4] } := by decide

theorem test_enable : ((after (.enable 0) (withRing ready)).ring 0).state = .active
    ∧ ((after (.enable 0) State.reset).ring 0).outcome = .refusedConfig .size := by decide

theorem test_pause : ((after (.pause 0) (withRing active)).ring 0).state = .paused := by decide

theorem test_resume : ((after (.resume 0) (withRing { active with state := .paused })).ring 0).state = .active := by
  decide

theorem test_halt : ((after (.halt 0) (withRing active)).ring 0).state = .halted := by decide

theorem test_clear : ((after (.clear 0) (withRing active)).ring 0).state = .off := by decide

theorem test_applyNow :
    ((after (.applyNow 0) (withRing { active with shadow := { live with highMark := 0x80, lowMark := 0x40 }, pending := true })).ring
      0).side = .high := by decide

theorem test_snapshot : ((after (.snapshot 0) (withRing active)).ring 0).snapshot.level = 0x100 := by decide

theorem test_undefinedCommand : ((after (.undefinedCommand 0 9) (withRing active)).ring 0).outcome = .refusedState := by
  decide

theorem test_structuralWrite :
    (structural.apertureBase, structural.memoryBase, structural.apertureSize, structural.capacity)
      = (0x0240100000, 0x0080003000, 2 ^ 20, 2 ^ 12)
    ∧ (after (.structuralWrite 0 .startOffset 5) (withRing active)).mgmt.flags.locked = true := by decide

theorem test_shadowWrite : ((after (.shadowWrite 0 .lowMark 5) (withRing active)).ring 0).pending = true
    ∧ ((after (.shadowWrite 0 .lowMark 5) (withRing ready)).ring 0).active.lowMark = 5 := by decide

theorem test_counterWrite :
    ((after (.counterWrite 0 .discard 9) (withRing { active with discardCount := 3 })).ring 0).discardCount = 0 := by
  decide

theorem test_lateCounterWrite :
    ((after (.lateCounterWrite 0 9) (withRing { active with lateCount := 3 })).ring 0).lateCount = 0 := by decide

theorem test_resetPart : (after .resetPart (waitingFor active passThrough (operation .read))).part = .resetting
    ∧ (after .resetPart (waitingFor active passThrough (operation .read))).mgmt.pointer = 0x008 := by decide

theorem test_partResetCompletion :
    (after .partResetCompletion { withRecords with part := .resetting }).part = .running
    ∧ (after .partResetCompletion { withRecords with part := .resetting }).events.lines = 0 := by decide

theorem test_lostFlagClear :
    (after .lostFlagClear { State.reset with events := { EventQueue.reset with lost := true, markerPending := true }
      }).events.lost = false := by decide

theorem test_eventPop : (after (.eventPop 0x7F00) withRecords).events.records = [record 1]
    ∧ (after (.eventPop 1) withRecords).mgmt.flags.popMismatch = true := by decide

theorem test_errorFlagsClear :
    (after (.errorFlagsClear 0x2) (State.setLockedFlag State.reset.setAddrFlag)).mgmt.flags
      = { addr := true, locked := false, partialEnd := false, popMismatch := false } := by decide

theorem test_tickDividerWrite : (after (.tickDividerWrite 0xFC00) State.reset).time.divider = 0
    ∧ (after (.tickDividerWrite 0) State.reset).time.intervalDivider = 99 := by decide

theorem test_memoryTimeoutWrite : (after (.memoryTimeoutWrite 15) State.reset).mgmt.memoryTimeout = 16 := by decide

theorem test_lineEnableWrite : (after (.lineEnableWrite 0) withRecords).events.lines = 0
    ∧ (after (.lineEnableWrite 4) withRecords).events.lines = 4 := by decide

theorem test_passFaultRoutingWrite : (after (.passFaultRoutingWrite 0x30) State.reset).mgmt.passFaultLine = 3
    ∧ (after (.passFaultRoutingWrite 0x30) State.reset).mgmt.passFaultEnable = false := by decide

theorem test_registerWrite :
    (after (.registerWrite 0x58 ⟨2, 0, 0x14, 0⟩) (after (.registerPointerSet 0x58 ⟨1, 4⟩) State.reset)).mgmt.pointer
      = 0x108
    ∧ ((after (.registerWrite 0x58 ⟨2, 0, 0x14, 0x0C⟩) (after (.registerPointerSet 0x58 ⟨1, 4⟩) State.reset)).ring
      0).structural.read .highBytesAndExponents = 0x0C140002
    ∧ (after (.registerWrite 0x58 ⟨1, 0, 0, 0⟩) State.reset).mgmt.flags.addr = true := by decide

theorem test_registerPointerSet : (after (.registerPointerSet 0x58 ⟨0x01, 0x07⟩) State.reset).mgmt.pointer = 0x104
    ∧ (after (.registerPointerSet 0x59 ⟨0x01, 0x07⟩) State.reset).mgmt.acknowledged = false := by decide

theorem test_partialWriteEnd : (after (.partialWriteEnd 0x58 (.insideGroup [1])) State.reset).mgmt.flags.partialEnd = true
    ∧ (after (.partialWriteEnd 0x58 .noData) State.reset).mgmt.flags.partialEnd = false := by decide

theorem test_registerRead : (after (.registerRead 0x58 4) State.reset).mgmt.returned = [0x7A, 0x18, 0x42, 0x01]
    ∧ (after (.registerRead 0x58 3) State.reset).mgmt.pointer = 0 := by decide

/-! ## States that meet the conditions of the statements

One theorem for each statement with conditions: concrete states and operands that meet them together, a conjunct for
each clause, at the edges of its ranges. -/

/-- One of the state's queued commands. -/
def queued (c : Instr) (s : State) : State := { s with pending := [c] }

theorem witness_StepTakesFrontCommand :
    (queued .lostFlagClear State.reset).pending = .lostFlagClear :: [] ∧ State.reset.pending = [] := by decide

theorem witness_HeldInResetDoesNothing :
    (after (.heldInReset []) State.reset).inReset = true
    ∧ (∀ a1 a0, Instr.registerPointerSet 0x58 ⟨0, 0⟩ ≠ .hardwareReset a1 a0)
    ∧ ∀ cut, Instr.registerPointerSet 0x58 ⟨0, 0⟩ ≠ .heldInReset cut := by
  refine ⟨by decide, by decide, ?_⟩
  intro cut h
  cases h

/-- Positions 6 and 2 of 8 are half an aperture apart; an extent may begin at the last position. -/
theorem witness_SignedDistanceAndIntersection :
    (0 < 3 ∧ 6 < 2 ^ 3 ∧ 2 < 2 ^ 3 ∧ 2 * distance (2 ^ 3) 6 2 = 2 ^ 3)
    ∧ (0 < 1 ∧ 0 < 2 ^ 1 ∧ 1 < 2 ^ 1)
    ∧ (-(2 : Int)) = (2 : Int) - 6 + 0 * 8 + 2
    ∧ (Extent.mk 7 1).start < 8 ∧ (Extent.mk 0 2).start < 8 := by decide

/-- A signed distance that meets its three conditions: half an aperture behind. -/
theorem witness_SignedDistance_value :
    (-4 : Int) = ((2 : Nat) : Int) - ((6 : Nat) : Int) + 0 * 2 ^ 3 ∧ -(2 ^ 3 : Int) ≤ 2 * (-4)
    ∧ 2 * (-4 : Int) < 2 ^ 3 := by decide

theorem witness_FoldAndLapBoundary :
    structural.capacity ∣ structural.apertureSize ∧ structural.capacity ≤ structural.capacity
    ∧ (foldParts structural 0xFFF 1).length = 1 ∧ (foldParts structural 0xFFF 2).length = 2
    ∧ IsLapBoundary structural 0xFFE 0x1000 ∧ ¬ IsLapBoundary structural 0xFFE 0xFFF := by decide

theorem witness_RequestWordsSpellTheRequest :
    (readRequest 0xFFFFFFFFFF 511).WellFormed = true ∧ (writeRequest 0 3 [1, 2, 3]).WellFormed = true
    ∧ (writeRequest 0 0 []).WellFormed = true := by decide

theorem witness_RegisterAddressNamesRegister :
    Reg.identification ≠ .unmapped ∧ Reg.status 15 (.poisonLength 3) ≠ .unmapped
    ∧ (Reg.status 15 (.poisonLength 3)).address = 0x8F8 ∧ 3 < 4
    ∧ ([0x030, 0x0FF, 0x134, 0x13F, 0x4FF, 0x53C, 0x8FF, 0x900, 0xFFFF].all fun a => Reg.ofAddress a = .unmapped)
    ∧ ([0x02F, 0x100, 0x133, 0x4F3, 0x500, 0x53B, 0x8FB].all fun a => Reg.ofAddress a ≠ .unmapped) := by decide +kernel

theorem witness_RingRegistersReadBack :
    StructuralReg.apertureBaseLow ≠ .startOffset ∧ LiveReg.highMark ≠ .lowMark := by decide

/-! ### The system port -/

/-- Master 1 with the given undelivered count, the given occupation of the issue queue and one admission waiting. -/
def port (undelivered queue : Nat) : State :=
  { (withRing active).setUndelivered 1 undelivered with
    awaiting := [0]
    mem := { MemoryPort.reset with
      queue := List.replicate queue
        { transaction := 1, part := .first, cls := .passThrough, direction := .read, address := 0x1000, length := 4
          data := [] } } }

def tableFull : State :=
  { State.reset with sys := { SystemPort.reset with table := Vector.replicate 64 (some passThrough) } }

/-- Acceptance at the last count and the last two free entries; and each of the five conditions failing. -/
theorem witness_AcceptanceNeedsFiveConditions :
    ((port 15 12).inReset = false ∧ (port 15 12).part = .running ∧ (∃ u, (port 15 12).txn u = none)
      ∧ (port 15 12).sys.undelivered[(1 : MasterNo).val] < 16
      ∧ (port 15 12).mem.queue.length + 2 * (port 15 12).awaiting.length + 2 ≤ 16
      ∧ (port 15 12).pool.released = [])
    ∧ ¬ (port 16 12).sys.undelivered[(1 : MasterNo).val] < 16
    ∧ ¬ (port 15 13).mem.queue.length + 2 * (port 15 13).awaiting.length + 2 ≤ 16
    ∧ (after .resetPart (waitingFor active passThrough (operation .read))).part ≠ .running
    ∧ (holding active (request .read 0x100 0x104) (heldEntry .underrun .released) [0]).pool.released ≠ []
    ∧ ¬ ∃ u, tableFull.txn u = none := by decide

/-- The conditions under which entry `u` is the one taken. -/
def Takes (q : Request) (s : State) (u : TxnNo) : Prop :=
  s.inReset = false ∧ s.accepts q.master = true ∧ s.txn u = none ∧ ∀ w : TxnNo, w < u → s.txn w ≠ none

/-- A request of master 1 with tag 5 stands undelivered in entry 0. -/
def one : State := (withRing active).setTxn 0 (some passThrough)

theorem witness_AcceptedRequestTakesLowestEntry :
    Takes (readRequest 0x1000 1) State.reset 0 ∧ Takes (readRequest 0x1000 1) one 1 := by
  unfold Takes
  decide

theorem witness_ProtocolChecksAnswerProtocol :
    (Takes (readRequest 0x1000 0) State.reset 0 ∧ (readRequest 0x1000 0).length.toNat = 0)
    ∧ (Takes (readRequest 0x1000 257) State.reset 0 ∧ 256 < (readRequest 0x1000 257).length.toNat)
    ∧ Takes (readRequest 0x1000 1) one 1
    ∧ one.txn 0 = some passThrough ∧ passThrough.master = 1 ∧ passThrough.tag = (readRequest 0x1000 1).tag := by
  unfold Takes
  decide

/-- One request of each class, with the first and the last byte that keep it there, and lengths 1 and 256. -/
theorem witness_ClassificationDecidesAcceptedRequest :
    (∀ q ∈ [readRequest 0x240100000 256, writeRequest 0x2401FFFFF 1 [7], readRequest 0x80003FFF 1,
        readRequest 0x2400FFFFF 2, readRequest 0xFFFFFFFFFF 2, readRequest 0x80002FFF 1],
      Takes q (withRing active) 0 ∧ q.WellFormed = true ∧ 0 < q.length.toNat ∧ q.length.toNat ≤ 256
      ∧ ∀ w, (withRing active).txn w = none)
    ∧ (withRing active).classify 0x240100000 256 = .ringRequest 0
    ∧ (withRing active).classify 0x2401FFFFF 1 = .ringRequest 0
    ∧ (withRing active).classify 0x80003FFF 1 = .guarded
    ∧ (withRing active).classify 0x2400FFFFF 2 = .straddling
    ∧ (withRing active).classify 0xFFFFFFFFFF 2 = .straddling
    ∧ (withRing active).classify 0x80002FFF 1 = .passThrough := by
  unfold Takes
  decide

theorem witness_ClassesAreToldByTheBytes :
    0 < 1 ∧ (withRing active).classify 0x240100000 1 = .ringRequest 0
    ∧ (withRing active).classify 0x80003000 1 = .guarded ∧ (withRing active).classify 0x80004000 1 = .passThrough
    ∧ (withRing active).classify 0x2401FFFFF 2 = .straddling := by decide

/-- A response ready in entry 0, the part in the given state. -/
def answered (p : PartState) : State :=
  { ((withRing active).setTxn 0 (some { passThrough with stage := .ready, status := some .done })).answer 0 .done with
    part := p }

theorem witness_DeliveryTakesOldestReady :
    ∀ p ∈ [PartState.running, .resetting], (answered p).inReset = false ∧ (answered p).sys.readyOrder = 0 :: []
    ∧ (answered p).txn 0 = some { passThrough with stage := .ready, status := some .done }
    ∧ (answered .running).part = .running := by decide

/-! ### Answers and holds -/

/-- Slot 0 is another ring's; ring 0 holds none. -/
def oneSlotTaken : State :=
  holding active (request .read 0x200 0x204) { heldEntry .underrun .waiting with ring := 3 } []

def allSlotsTaken : State :=
  { withRing active with
    pool := { HoldPool.reset with
      entries := (List.finRange 32).map fun i => { heldEntry .underrun .waiting with slot := i, ring := 3 } } }

theorem witness_HoldIsGrantedWithinQuota :
    (admitting active (request .read 0x200 0x204)).txn 0 = some (request .read 0x200 0x204)
    ∧ ((∀ h ∈ oneSlotTaken.pool.entries, h.slot ≠ 1)
      ∧ (∀ j : SlotNo, j < 1 → ∃ h ∈ oneSlotTaken.pool.entries, h.slot = j)
      ∧ oneSlotTaken.pool.heldCount 0 < (oneSlotTaken.ring 0).active.holdQuota.toNat)
    ∧ (holding active (request .read 0x200 0x204) (heldEntry .underrun .waiting) []).pool.heldCount 0
      = (active.active.holdQuota).toNat
    ∧ ∀ i : SlotNo, ∃ h ∈ allSlotsTaken.pool.entries, h.slot = i := by decide

theorem wellFormed_one_released :
    (holding active (request .read 0x100 0x104) (heldEntry .underrun .released) [0]).pool.WellFormed :=
  ⟨by decide, by decide, by decide⟩

theorem witness_HoldListIsAnsweredOldestFirst :
    (holding active (request .read 0x100 0x104) (heldEntry .underrun .released) [0]).pool.WellFormed
    ∧ (([heldEntry .underrun .released]).map HoldEntry.transaction).Nodup
    ∧ (∀ h ∈ (holding active (request .read 0x100 0x104) (heldEntry .underrun .released) [0]).pool.entries,
      (holding active (request .read 0x100 0x104) (heldEntry .underrun .released) [0]).txn h.transaction ≠ none) :=
  ⟨wellFormed_one_released, by decide, by decide⟩

/-! ### Admissions -/

/-- A request of ring 0 with range [start, stop) is the oldest admission. -/
def Admits (direction : Direction) (x : Ring) (start stop : Nat) : Prop :=
  (admitting x (request direction start stop)).inReset = false
  ∧ (admitting x (request direction start stop)).awaiting = 0 :: []
  ∧ (admitting x (request direction start stop)).txn 0 = some (request direction start stop)
  ∧ (request direction start stop).direction = direction
  ∧ (request direction start stop).ring = some 0 ∧ (request direction start stop).range = some ⟨start, stop⟩
  ∧ (request direction start stop).cleared = false

theorem witness_WriteChecksDecideInOrder : Admits .write active 0x200 0x204 := by
  unfold Admits
  decide

/-- The write that ends at the room end itself, and whose parts fold at a multiple of C. -/
theorem witness_AdmittedWriteIsPlacedAndQueued :
    Admits .write active 0x1000 0x1100 ∧ judgeWrite active 1 ⟨0x1000, 0x1100⟩ = .admitted ∧ ¬ active.BeyondRoom 0x1100
    ∧ Admits .write active 0xFFF 0x1001 ∧ judgeWrite active 1 ⟨0xFFF, 0x1001⟩ = .admitted
    ∧ (request .write 0xFFF 0x1001).parts.length = 2
    ∧ ((request .write 0xFFF 0x1001).parts.map Part.length).sum = (request .write 0xFFF 0x1001).data.length := by
  unfold Admits
  decide +kernel

theorem witness_WriteAdmissionKeepsFrontiersOrdered :
    active.FrontiersOrdered ∧ 4 * active.C ≤ active.A ∧ active.D < active.A ∧ active.F < active.A
    ∧ active.W < active.A ∧ active.K < active.A ∧ 0x1100 < active.A
    ∧ judgeWrite active 1 ⟨0x1000, 0x1100⟩ = .admitted ∧ ¬ active.BeyondRoom 0x1100 := by
  unfold Ring.FrontiersOrdered
  decide

/-- An active ring with the policy OVERTAKE. -/
def overtaking : Ring := { active with active := { live with overrun := .overtake } }

theorem witness_OvertakeMovesDrainFrontier :
    Admits .write overtaking 0x1100 0x1101 ∧ judgeWrite overtaking 1 ⟨0x1100, 0x1101⟩ = .admitted
    ∧ overtaking.BeyondRoom 0x1101 ∧ overtaking.active.includesKind .overtaken = true
    ∧ (admitting overtaking (request .write 0x1100 0x1101)).events.records.length < 32 := by
  unfold Admits
  decide

theorem witness_ReadChecksDecideInOrder : Admits .read active 0x100 0x104 := by
  unfold Admits
  decide

/-- The read of everything between D and F. -/
theorem witness_AdmittedReadIsPlacedAndQueued :
    Admits .read active 0x100 0x200 ∧ judgeRead active .consume ⟨0x100, 0x200⟩ = .admitted
    ∧ readClass active 1 = .consume ∧ consumePart active .consume ⟨0x100, 0x200⟩ = some ⟨0x100, 0x200⟩
    ∧ Admits .read active 0x0 0x100 ∧ judgeRead active .consume ⟨0x0, 0x100⟩ = .admitted
    ∧ consumePart active .consume ⟨0x0, 0x100⟩ = none := by
  unfold Admits
  decide +kernel

/-- Poison on both sides of D. -/
def poisoned : Ring := { active with poison := [⟨0xFF, 0x101⟩] }

/-- A re-read up to D, a read from D, and a read from D on whose consume part does not begin at D. -/
theorem witness_PoisonedReadConsumes :
    (Admits .read poisoned 0xFF 0x100 ∧ judgeRead poisoned .consume ⟨0xFF, 0x100⟩ = .poisoned
      ∧ consumePart poisoned .consume ⟨0xFF, 0x100⟩ = none)
    ∧ (Admits .read poisoned 0x100 0x101 ∧ judgeRead poisoned .consume ⟨0x100, 0x101⟩ = .poisoned
      ∧ (absorbDrain poisoned.D (mergeLanded (insertEntry poisoned.A poisoned.D
          { extent := ⟨0x100, 0x101⟩, state := .landed, transactions := [0] } poisoned.drain))).2 = 0x101)
    ∧ (Admits .read { poisoned with D := 0xFE } 0xFF 0x101
      ∧ judgeRead { poisoned with D := 0xFE } .consume ⟨0xFF, 0x101⟩ = .poisoned
      ∧ (absorbDrain 0xFE (mergeLanded (insertEntry poisoned.A 0xFE
          { extent := ⟨0xFF, 0x101⟩, state := .landed, transactions := [0] } poisoned.drain))).2 = 0xFE)
    ∧ readClass poisoned 1 = .consume := by
  unfold Admits
  decide

theorem witness_ReAdmissionTakesReleasedHead :
    (∀ d ∈ [Direction.read, .write],
      let s := holding active (request d 0x100 0x104) (heldEntry .underrun .released) [0]
      s.inReset = false ∧ s.mem.queue.length + 2 * s.awaiting.length + 2 ≤ 16 ∧ s.pool.released = 0 :: []
      ∧ heldEntry .underrun .released ∈ s.pool.entries ∧ (heldEntry .underrun .released).slot = 0
      ∧ s.txn 0 = some { request d 0x100 0x104 with stage := .held }
      ∧ (request d 0x100 0x104).range = some ⟨0x100, 0x104⟩)
    ∧ State.reset.pool.released = [] ∧ 16 < (port 0 13).mem.queue.length + 2 * (port 0 13).awaiting.length + 2 := by
  decide

/-! ### The memory port -/

/-- A head of the issue queue beside one outstanding operation. -/
def considering (head : Operation) (o : Outstanding) : State :=
  { (withRing active).setTxn 0 (some { passThrough with stage := .queued }) with
    mem := { queue := [head], outstanding := [o], link := none } }

def head (cls : OpClass) (direction : Direction) (address : Nat) : Operation :=
  { transaction := 0, part := .first, cls := cls, direction := direction, address := address, length := 4, data := [] }

/-- All 48 ids are in use, by orphans. -/
def idsUsed : State :=
  { considering (head .passThrough .read 0x1000) (operation .read) with
    mem := {
      queue := [head .passThrough .read 0x1000]
      outstanding := (List.finRange 48).map fun i => { operation .read with id := i, condition := .orphan }
      link := none } }

/-- Guarded by its last byte alone; one byte short of that; all ids used; overlapping by one byte; ready for id 1. -/
theorem witness_IssueConsidersTheHead :
    State.reset.mem.queue = []
    ∧ (∃ r, ((considering (head .passThrough .read 0x80002FFD) (operation .read)).ring r).state ≠ .off ∧
      RangesMeet 0x80002FFD 4 ((considering (head .passThrough .read 0x80002FFD) (operation .read)).ring
        r).structural.memoryBase.toNat active.C)
    ∧ (¬ ∃ r, ((considering (head .passThrough .read 0x80002FFC) (operation .read)).ring r).state ≠ .off ∧
      RangesMeet 0x80002FFC 4 ((considering (head .passThrough .read 0x80002FFC) (operation .read)).ring
        r).structural.memoryBase.toNat
        ((considering (head .passThrough .read 0x80002FFC) (operation .read)).ring r).C)
    ∧ (∀ i : OpId, ∃ o ∈ idsUsed.mem.outstanding, o.id = i)
    ∧ (∃ o ∈ (considering (head .ring .read 0x80003203) (operation .write)).mem.outstanding, o.condition = .live ∧
      RangesMeet 0x80003203 4 o.address o.length ∧ (Direction.read = .write ∨ o.direction = .write))
    ∧ (¬ ∃ o ∈ (considering (head .ring .read 0x80003204) (operation .write)).mem.outstanding, o.condition = .live ∧
      RangesMeet 0x80003204 4 o.address o.length ∧ (Direction.read = .write ∨ o.direction = .write))
    ∧ (considering (head .ring .read 0x80003204) (operation .write)).txn 0 = some { passThrough with stage := .queued }
    := by decide

theorem witness_MemoryResponseMatchesById :
    (∀ o ∈ [operation .read, { operation .read with condition := .orphan }],
      (waitingFor active passThrough o).inReset = false
      ∧ ((waitingFor active passThrough o).mem.outstanding.map Outstanding.id).Nodup
      ∧ (∀ p ∈ (waitingFor active passThrough o).mem.outstanding, p.id.val ≠ (1 : BitVec 6).toNat)
      ∧ o ∈ (waitingFor active passThrough o).mem.outstanding ∧ o.id.val = (0 : BitVec 6).toNat) := by decide

/-- The conditions on one live operation of a request's, and the response that ends it. -/
def Ends (s : State) (o : Outstanding) (x : Txn) : Prop :=
  s.inReset = false ∧ (s.mem.outstanding.map Outstanding.id).Nodup ∧ o ∈ s.mem.outstanding
  ∧ o.id.val = (0 : BitVec 6).toNat ∧ o.condition = .live ∧ s.txn o.transaction = some x

/-- Both parts of a request that folds are out. -/
def bothParts (direction : Direction) : State :=
  (waitingFor active (request direction 0xFFF 0x1001) { operation direction with length := 1 }).setTxn 0
    (some { request direction 0xFFF 0x1001 with stage := .outstanding, outstanding := 2, data := [] })

theorem witness_FirstEndOfTwoIsRecorded :
    ∀ d ∈ [Direction.read, .write],
      Ends (bothParts d) { operation d with length := 1 }
        { request d 0xFFF 0x1001 with stage := .outstanding, outstanding := 2, data := [] }
      ∧ (request d 0xFFF 0x1001).ring = some 0 ∧ ((bothParts d).ring 0).state ≠ .clearing ∧ (bothParts d).part = .running
      ∧ ([7] : List Byte).length = ({ operation d with length := 1 } : Outstanding).length := by
  unfold Ends
  decide

/-- A ring with one write in flight at F. -/
def filling (state : RingState) (poison : List Extent) : Ring :=
  { active with
    state := state, poison := poison
    fill := [{ extent := ⟨0x200, 0x204⟩, state := .inFlight, transactions := [0] }] }

def lastWrite (x : Ring) : State := waitingFor x (request .write 0x200 0x204) (operation .write)

def outOf (t : Txn) : Txn := { t with stage := .outstanding, outstanding := 1, data := [] }

/-- Every ring state that a write's end can meet, with a poison list that is full in the second list. -/
theorem witness_WriteEndAnswersAndAbsorbs :
    ∀ state ∈ [RingState.active, .draining, .paused, .halted, .clearing], ∀ poison ∈ [[], [Extent.mk 1 2, ⟨3, 4⟩, ⟨5, 6⟩, ⟨7, 8⟩]],
      Ends (lastWrite (filling state poison)) (operation .write) (outOf (request .write 0x200 0x204))
      ∧ (operation .write).direction = .write ∧ (outOf (request .write 0x200 0x204)).direction = .write
      ∧ (outOf (request .write 0x200 0x204)).ring = some 0
      ∧ ∀ h ∈ (lastWrite (filling state poison)).pool.entries, h.transaction ≠ 0 := by
  unfold Ends
  decide

/-- The write's failed end is refused by a full poison list, and taken by one with room. -/
theorem witness_WriteEnd_refused :
    (absorbFill 0x200 [⟨1, 2⟩, ⟨3, 4⟩, ⟨5, 6⟩, ⟨7, 8⟩] (turnEntry 0 .void (filling .active []).fill)).refused = true
    ∧ (absorbFill 0x200 [⟨1, 2⟩, ⟨3, 4⟩, ⟨5, 6⟩] (turnEntry 0 .void (filling .active []).fill)).refused = false
    ∧ (absorbFill 0x200 [⟨1, 2⟩, ⟨3, 4⟩, ⟨5, 6⟩, ⟨7, 0x200⟩] (turnEntry 0 .void (filling .active []).fill)).refused
      = false := by decide

/-- A ring with one read in flight at D. -/
def reading (state : RingState) : Ring :=
  { active with state := state, drain := [{ extent := ⟨0x100, 0x104⟩, state := .inFlight, transactions := [0] }] }

theorem witness_ReadEndAnswersAndAbsorbs :
    ∀ x ∈ [reading .active, reading .draining, reading .paused, reading .halted, reading .clearing, active],
      Ends (waitingFor x (request .read 0x100 0x104) (operation .read)) (operation .read)
        (outOf (request .read 0x100 0x104))
      ∧ (outOf (request .read 0x100 0x104)).direction = .read ∧ (outOf (request .read 0x100 0x104)).ring = some 0
      ∧ ([1, 2, 3, 4] : List Byte).length = (operation .read).length := by
  unfold Ends
  decide

theorem witness_PassThroughEndAnswers :
    ∀ d ∈ [Direction.read, .write],
      Ends (waitingFor active { passThrough with direction := d } (operation d)) (operation d)
        (outOf { passThrough with direction := d })
      ∧ (waitingFor active passThrough (operation d)).part = .running
      ∧ (operation d).part = .first ∧ (outOf passThrough).ring = none ∧ (outOf passThrough).outstanding = 1
      ∧ (outOf passThrough).parts
        = [{ memAddress := 0x1000, length := 4, range := none, result := .pending, data := [] }]
      ∧ ([1, 2, 3, 4] : List Byte).length = (operation d).length := by
  unfold Ends
  decide

/-- Two operations of two requests fall due at one tick. -/
def twoExpiring : State :=
  { (waitingFor active passThrough (operation .read)).setTxn 1 (some (outOf passThrough)) with
    mem := { MemoryPort.reset with
      outstanding := [{ operation .read with id := 7, transaction := 1 }, operation .read] } }

theorem test_responseTimeout_of_two :
    (after .responseTimeout twoExpiring).sys.readyOrder = [1, 0]
    ∧ (after .responseTimeout twoExpiring).mem.outstanding.map (fun o => (o.id.val, o.condition))
      = [(7, .orphan), (0, .orphan)] := by decide

theorem witness_TimeoutOrphansExpiredOperations :
    (twoExpiring.expiringOperations.length = 2 ∧ (twoExpiring.mem.outstanding.map Outstanding.id).Nodup
      ∧ ∀ o ∈ twoExpiring.mem.outstanding, ∀ p ∈ twoExpiring.mem.outstanding, p.transaction = o.transaction → p = o) ∧
    (waitingFor active passThrough (operation .read)).expiringOperations = [operation .read]
    ∧ (waitingFor active passThrough { operation .read with deadline := 1 }).expiringOperations = []
    ∧ ((waitingFor active passThrough (operation .read)).mem.outstanding.map Outstanding.id).Nodup
    ∧ (waitingFor active passThrough (operation .read)).txn 0 = some (outOf passThrough)
    ∧ (operation .read).part.index < (outOf passThrough).parts.length
    ∧ ∀ h ∈ (waitingFor active passThrough (operation .read)).pool.entries, h.transaction ≠ 0 := by decide

/-! ### The tick count -/

/-- The last cycle before the tick, with what is due in the pool and in the memory port. -/
def lastCycle (s : State) : State := { s with time := { s.time with cycles := 99 } }

theorem witness_TickAfterDividerPlusOne :
    State.reset.time.cycles + 99 ≤ State.reset.time.intervalDivider.toNat
    ∧ (∀ s ∈ [lastCycle State.reset, lastCycle (waitingFor active passThrough (operation .read)),
        lastCycle (holding active (request .read 0x200 0x204) (heldEntry .underrun .waiting) [])],
      s.time.cycles = s.time.intervalDivider.toNat)
    ∧ (∃ h ∈ (lastCycle (holding active (request .read 0x200 0x204) (heldEntry .underrun .waiting) [])).pool.entries,
      h.state = .waiting ∧ h.deadline = 0)
    ∧ (∃ o ∈ (lastCycle (waitingFor active passThrough (operation .read))).mem.outstanding,
      o.condition = .live ∧ o.deadline = 0) := by decide

theorem witness_ExpiryAnswersLate :
    let s := holding active (request .read 0x200 0x204) (heldEntry .underrun .waiting) []
    s.inReset = false ∧ s.pool.WellFormed ∧ (s.pool.entries.map HoldEntry.transaction).Nodup
    ∧ (∀ h ∈ s.pool.entries, s.txn h.transaction ≠ none)
    ∧ s.txn 0 = some { request .read 0x200 0x204 with stage := .held }
    ∧ ∃ h ∈ s.pool.entries, h.state = .waiting ∧ h.deadline = s.time.count :=
  ⟨by decide, ⟨by decide, by decide, by decide⟩, by decide, by decide, by decide, by decide⟩

/-! ### Ring commands -/

/-- The seven tests of ENABLE for ring 0, as the statement writes them, in their order. -/
def enableTests (s : State) : List Bool :=
  let x := s.ring 0
  let a := x.structural.apertureExponent.toNat
  let c := x.structural.capacityExponent.toNat
  [decide (¬ x.A ∣ x.apertureStart ∨ ¬ 256 ∣ x.spanStart),
   decide (¬ (20 ≤ a ∧ a ≤ 30) ∨ ¬ (12 ≤ c ∧ c ≤ 24) ∨ x.A < 4 * x.C),
   decide (∃ q, q ≠ 0 ∧ (s.ring q).state ≠ .off ∧
      (RangesMeet x.apertureStart x.A (s.ring q).apertureStart (s.ring q).A
        ∨ RangesMeet x.apertureStart x.A (s.ring q).spanStart (s.ring q).C)),
   decide (2 ^ 40 < x.spanStart + x.C ∨ RangesMeet x.spanStart x.C x.apertureStart x.A
      ∨ ∃ q, q ≠ 0 ∧ (s.ring q).state ≠ .off ∧
        (RangesMeet x.spanStart x.C (s.ring q).spanStart (s.ring q).C
          ∨ RangesMeet x.spanStart x.C (s.ring q).apertureStart (s.ring q).A)),
   decide (x.active.highMark.toNat = 0 ∨ x.C < x.active.highMark.toNat
      ∨ ¬ x.active.lowMark.toNat < x.active.highMark.toNat),
   decide (x.active.holdTimeout = 0 ∧ (x.active.underrun = .wait ∨ x.active.overrun = .block)),
   decide (32 < x.active.holdQuota.toNat)]

def readyWith (c : Structural) (l : Live) : State := withRing { ready with structural := c, active := l }

/-- Ring 0 ready, ring 1 ACTIVE with the given structural fields. -/
def besides (c : Structural) : State := (withRing ready).setRing 1 { active with structural := c }

theorem witness_EnableChecksAndActivates :
    (withRing ready).inReset = false ∧ (withRing ready).part = .running ∧ ((withRing ready).ring 0).state = .off
    ∧ (enableTests (readyWith { structural with memoryBase := 0x80003001 } live)).take 1 = [true]
    ∧ (enableTests (readyWith { structural with capacityExponent := 19 } live)).take 2 = [false, true]
    ∧ (enableTests (besides { structural with memoryBase := 0 })).take 3 = [false, false, true]
    ∧ (enableTests (besides { structural with apertureBase := 0x240200000, memoryBase := 0x80002001 })).take 4
      = [false, false, false, true]
    ∧ (enableTests (readyWith structural { live with highMark := 0x1001 })).take 5 = [false, false, false, false, true]
    ∧ (enableTests (readyWith structural { live with holdTimeout := 0 })).take 6
      = [false, false, false, false, false, true]
    ∧ enableTests (readyWith structural { live with holdQuota := 33 })
      = [false, false, false, false, false, false, true]
    ∧ enableTests (readyWith { structural with capacityExponent := 18 }
        { live with highMark := 0x40000, lowMark := 0x3FFFF, holdQuota := 32 })
      = [false, false, false, false, false, false, false] := by decide

theorem witness_PauseBeginsDrain :
    (∀ x ∈ [filling .active [], active],
      (withRing x).inReset = false ∧ (withRing x).part = .running ∧ ((withRing x).ring 0).state = .active)
    ∧ (∃ e ∈ (filling .active []).fill, e.state = .inFlight) ∧ (∀ e ∈ active.fill, e.state ≠ .inFlight)
    ∧ ((withRing { active with state := .draining }).ring 0).state = .draining
    ∧ (∃ e ∈ ((withRing (filling .draining [])).ring 0).fill, e.state = .inFlight)
    ∧ ((withRing active).ring 0).state ≠ .draining := by decide

theorem witness_ResumeReturnsToActive :
    (withRing { active with state := .paused }).inReset = false
    ∧ (withRing { active with state := .paused }).part = .running
    ∧ ((withRing { active with state := .paused }).ring 0).state = .paused
    ∧ ((withRing active).ring 0).state ≠ .paused ∧ active.active.underrun = .wait := by decide

theorem witness_HaltFreezesRing :
    ∀ state ∈ [RingState.active, .draining, .paused],
      (withRing { active with state := state }).inReset = false
      ∧ (withRing { active with state := state }).part = .running
      ∧ (((withRing { active with state := state }).ring 0).state = .active
        ∨ ((withRing { active with state := state }).ring 0).state = .draining
        ∨ ((withRing { active with state := state }).ring 0).state = .paused) := by decide

/-- A clear with an operation live, one with an orphan alone, and one with nothing left. -/
theorem witness_ClearAnswersAndEnds :
    (∀ state ∈ [RingState.off, .active, .draining, .paused, .halted, .clearing],
      (withRing { active with state := state }).inReset = false
      ∧ (withRing { active with state := state }).part = .running
      ∧ ((withRing { active with state := state }).ring 0).state = state
      ∧ ¬ ∃ o ∈ (withRing { active with state := state }).mem.outstanding, o.condition = .live)
    ∧ (∃ o ∈ (lastWrite (filling .active [])).mem.outstanding, o.condition = .live
      ∧ (lastWrite (filling .active [])).ringOf o.transaction = some 0)
    ∧ (∃ o ∈ (lastWrite (filling .clearing [])).mem.outstanding, o.condition = .live
      ∧ (lastWrite (filling .clearing [])).ringOf o.transaction = some 0)
    ∧ ((lastWrite (filling .clearing [])).ring 0).state = .clearing
    ∧ (¬ ∃ o ∈ (waitingFor { active with state := .clearing } (request .write 0x200 0x204)
      { operation .write with condition := .orphan }).mem.outstanding, o.condition = .live) := by decide

/-- The tests MARKS, TIMEOUT and QUOTA of a live set, as the statement writes them. -/
def applyTests (l : Live) (C : Nat) : List Bool :=
  [decide (l.highMark.toNat = 0 ∨ C < l.highMark.toNat ∨ ¬ l.lowMark.toNat < l.highMark.toNat),
   decide (l.holdTimeout = 0 ∧ (l.underrun = .wait ∨ l.overrun = .block)),
   decide (32 < l.holdQuota.toNat)]

theorem witness_ShadowSetIsApplied :
    (∀ state ∈ [RingState.off, .active, .draining, .clearing, .paused, .halted],
      (withRing { active with state := state, pending := true }).inReset = false
      ∧ (withRing { active with state := state, pending := true }).part = .running
      ∧ ((withRing { active with state := state, pending := true }).ring 0).state = state
      ∧ ((withRing { active with state := state, pending := true }).ring 0).pending = true)
    ∧ ((withRing active).ring 0).pending = false
    ∧ (live.write .highMark 0x1000, live.write .highMark 0x1001).1.highMark = 0x1000
    ∧ applyTests (live.write .highMark 0x1000) active.C = [false, false, false]
    ∧ applyTests (live.write .highMark 0x1001) active.C = [true, false, false]
    ∧ applyTests (live.write .timeoutKindMask 0) active.C = [false, true, false]
    ∧ applyTests (live.write .observerPoliciesLineQuota 0x21000000) active.C = [false, false, true]
    ∧ applyTests (live.write .observerPoliciesLineQuota 0x20000000) active.C = [false, false, false] := by decide

theorem witness_SnapshotCopiesRing : (withRing active).inReset = false ∧ (withRing active).part = .running := by decide

theorem witness_TurnedAwayWritesChangeNothingElse :
    (∀ state ∈ [RingState.off, .active, .draining, .paused, .halted, .clearing],
      (withRing { active with state := state }).inReset = false
      ∧ (withRing { active with state := state }).part = .running
      ∧ ((withRing { active with state := state }).ring 0).state = state)
    ∧ (0 : BitVec 4) = 0 ∧ 8 ≤ (8 : BitVec 4).toNat ∧ 8 ≤ (15 : BitVec 4).toNat
    ∧ (after .resetPart (waitingFor active passThrough (operation .read))).inReset = false
    ∧ (after .resetPart (waitingFor active passThrough (operation .read))).part = .resetting := by decide

/-! ### Register writes and reads -/

theorem witness_RegisterWritesStoreTheirFields :
    withRecords.inReset = false ∧ withRecords.part = .running ∧ (withRecords.ring 0).state = .off
    ∧ ((withRing active).ring 0).state ≠ .off
    ∧ (storedTimeout 15, storedTimeout 16, storedTimeout 0xFFFF) = (16, 16, 0xFFFF) := by decide

theorem witness_EventPopTakesTheNamedHead :
    State.reset.inReset = false ∧ State.reset.events.records = []
    ∧ withRecords.inReset = false ∧ withRecords.events.records = record 0 :: [record 1]
    ∧ (0x1FF : Word).extractLsb' 0 8 ≠ (record 0).sequence
    ∧ (0x100 : Word).extractLsb' 0 8 = (record 0).sequence := by decide

/-- A part whose pointer names the address. -/
def pointing (a : BitVec 16) : State := { State.reset with mgmt := { Management.reset with pointer := a } }

/-- An aligned pointer for each clause, at the first and the last address of each block. -/
theorem witness_RegisterWriteIsTheNamedWrite :
    (∀ p ∈ [((0x000 : BitVec 16), Reg.identification), (0x004, .control), (0x008, .divider), (0x00C, .memoryTimeout),
        (0x010, .lineEnables), (0x014, .passFault), (0x018, .tickCount), (0x01C, .occupancy), (0x020, .eventHead0),
        (0x024, .eventHead1), (0x028, .eventPop), (0x02C, .errorFlags), (0x030, .unmapped), (0x0FC, .unmapped),
        (0x100, .structural 0 .apertureBaseLow), (0x4CC, .structural 15 .startOffset),
        (0x110, .live 0 .producerConsumerMasks), (0x4E0, .live 15 .timeoutKindMask), (0x4E4, .command 15),
        (0x128, .fillCounter 0 .discard), (0x4EC, .fillCounter 15 .overtake), (0x4F0, .lateCounter 15),
        (0x4F4, .unmapped), (0x500, .status 0 .snapshotD), (0x8F8, .status 15 (.poisonLength 3)), (0x8FC, .unmapped),
        (0x900, .unmapped), (0xFFFC, .unmapped)],
      Reg.ofAddress (pointing p.1).mgmt.pointer = p.2 ∧ alignPointer (pointing p.1).mgmt.pointer = p.1
      ∧ (pointing p.1).inReset = false)
    ∧ ((0x102 : Word).getLsbD 1, (0x102 : Word).getLsbD 8) = (true, true) := by decide +kernel

theorem witness_PointerAndStops :
    State.reset.inReset = false ∧ (0x58 : BitVec 7) = State.reset.mgmt.i2cAddress
    ∧ (0x59 : BitVec 7) ≠ State.reset.mgmt.i2cAddress := by decide

theorem witness_RegisterReadReturnsCapturedWord :
    State.reset.inReset = false ∧ 1 ≤ 1 ∧ 1 ≤ 4 ∧ 4 ≤ 4 ∧ State.reset.events.records = []
    ∧ withRecords.events.records = record 0 :: [record 1] := by decide

/-! ### Events and the part reset -/

theorem witness_RecordsAreStoredOrLost :
    ({ EventQueue.reset with records := List.replicate 31 (record 0) } : EventQueue).records.length < 32
    ∧ 32 ≤ ({ EventQueue.reset with records := List.replicate 32 (record 0) } : EventQueue).records.length
    ∧ (({ active with D := 0, F := 0x600 } : Ring).side = .low ∧ active.active.highMark.toNat ≤ distance active.A 0 0x600)
    ∧ (({ active with side := .high, D := 0, F := 0x200 } : Ring).side = .high
      ∧ distance active.A 0 0x200 ≤ active.active.lowMark.toNat)
    ∧ distance active.A 0 0x5FF < active.active.highMark.toNat
    ∧ active.active.lowMark.toNat < distance active.A 0 0x201
    ∧ active.active.lowMark.toNat < active.active.highMark.toNat := by decide

theorem witness_ResetPartClearsRings :
    (after .resetPart (waitingFor active passThrough (operation .read))).part = .resetting
    ∧ (lastWrite (filling .active [])).inReset = false ∧ (lastWrite (filling .active [])).part = .running
    ∧ (∀ h ∈ (holding active (request .read 0x200 0x204) (heldEntry .underrun .waiting) []).pool.entries,
      (holding active (request .read 0x200 0x204) (heldEntry .underrun .waiting) []).txn h.transaction ≠ none)
    ∧ (∃ o ∈ (lastWrite (filling .active [])).mem.outstanding, o.condition = .live
      ∧ (lastWrite (filling .active [])).ringOf o.transaction = some 0) := by decide

def orphanLeft : State :=
  { State.reset with
    part := .resetting
    mem := { MemoryPort.reset with outstanding := [{ operation .read with condition := .orphan }] } }

/-- A RESETTING part with an orphan out, and one with a live operation. -/
theorem witness_PartResetCompletes :
    (orphanLeft.inReset = false ∧ orphanLeft.part = .resetting ∧ (∀ u, orphanLeft.txn u = none)
      ∧ orphanLeft.mem.queue = [] ∧ ∀ o ∈ orphanLeft.mem.outstanding, o.condition = .orphan)
    ∧ (¬ ∀ o ∈ (after .resetPart (waitingFor active passThrough (operation .read))).mem.outstanding,
      o.condition = .orphan) := by decide

/-! ### What every step keeps

Each invariant, in a state where it says something, with a command at the front that touches what it is about. -/

theorem witness_EventsAndPointerStayWellFormed :
    let s := queued (.eventPop 0) withRecords
    (s.LinesAgree ∧ s.events.WellFormed ∧ s.PointerAligned) ∧ ∃ t, step s = .next t ∧ t.events.records = [record 1] :=
  ⟨⟨by unfold State.LinesAgree; decide, ⟨by decide, by unfold EventQueue.Consecutive; decide⟩,
    by unfold State.PointerAligned; decide⟩, _, rfl, by decide⟩

theorem witness_MemoryPortStaysSafe :
    let s := queued .issueHead (considering (head .ring .read 0x80003204) (operation .write))
    (s.mem.Safe ∧ s.QueueFits) ∧ ∃ t, step s = .next t ∧ t.mem.outstanding.length = 2 :=
  ⟨⟨⟨by decide, List.pairwise_singleton _ _⟩, by unfold State.QueueFits; decide⟩, _, rfl, by decide⟩

theorem witness_RingsStayBounded :
    let s := queued .writeAdmission (admitting (filling .active []) (request .write 0x204 0x208))
    (s.RingsBounded ∧ s.DrainNeverVoid) ∧ ∃ t, step s = .next t ∧ (t.ring 0).fill.length = 2 :=
  ⟨⟨fun r => ⟨by revert r; decide, by revert r; decide, by revert r; decide⟩, by unfold State.DrainNeverVoid; decide⟩,
    _, rfl, by decide⟩

theorem witness_HoldPoolStaysWellFormed :
    let s := queued .reAdmission (holding active (request .read 0x100 0x104) (heldEntry .underrun .released) [0])
    (s.pool.WellFormed ∧ s.HeldOnlyActive) ∧ ∃ t, step s = .next t ∧ t.pool.entries = [] :=
  ⟨⟨⟨by decide, by decide, by decide⟩, by unfold State.HeldOnlyActive; decide⟩, _, rfl, by decide⟩

theorem witness_UndeliveredCountsAgree :
    let s := queued .responseDelivery ((answered .running).setUndelivered 1 1)
    s.CountsAgree ∧ ∃ t, step s = .next t ∧ t.sys.undelivered[1] = 0 :=
  ⟨by unfold State.CountsAgree; decide, _, rfl, by decide⟩

/-- One write of ring 0 is in flight at F, and another waits for its admission. -/
def oneWrite : State :=
  queued .writeAdmission { (admitting { filling .active [] with W := 0x204 } (request .write 0x204 0x208)).setTxn 1
      (some { request .write 0x200 0x204 with stage := .outstanding, outstanding := 1, data := [] }) with
    mem := { MemoryPort.reset with outstanding := [{ operation .write with transaction := 1 }] } }

theorem only_ring_zero : ∀ r, (oneWrite.ring r).state ≠ .off → r = 0 := by decide +kernel

theorem sound_oneWrite : oneWrite.Sound where
  entries := {
    places := by decide +kernel
    stages := by decide +kernel
    requests := by unfold Ring.Fits; decide +kernel
    holds := by decide +kernel
    passing := by decide +kernel
    ids := by decide +kernel }
  held := by unfold State.HeldOnlyActive; decide +kernel
  clearing := by unfold State.ClearingIsBusy; decide +kernel
  resetting := by unfold State.ResettingClears; decide +kernel
  streams := by
    intro r h
    obtain rfl := only_ring_zero r h
    exact {
      sizes := by decide +kernel
      positions := by decide +kernel
      frontiers := by unfold Ring.FrontiersOrdered; decide +kernel
      fill := ⟨by decide +kernel, by decide +kernel⟩
      drain := ⟨by decide +kernel, by decide +kernel⟩
      poison := ⟨by decide +kernel, by decide +kernel⟩
      marks := by decide +kernel
      side := show (oneWrite.ring 0).level < (oneWrite.ring 0).active.highMark.toNat by decide +kernel }

theorem witness_WriteAdmissionKeepsFrontiersOrdered_step :
    oneWrite.Sound ∧ ∃ t, step oneWrite = .next t ∧ (t.ring 0).fill.length = 2 :=
  ⟨sound_oneWrite, _, rfl, by decide +kernel⟩

theorem witness_AddressLawIsKept :
    let s := queued (.enable 0) (besides { structural with apertureBase := 0x240200000, memoryBase := 0x80002000 })
    (s.part = .running ∧ s.ClearingIsBusy ∧ s.AddressLaw) ∧ ∃ t, step s = .next t ∧ (t.ring 0).state = .active :=
  ⟨⟨by decide, by unfold State.ClearingIsBusy; decide, ⟨by decide, by decide⟩⟩, _, rfl, by decide⟩

end Sys2Proof.Tests
end

section
/-! The fold, the classification, the read checks, the first of two ends. -/

namespace Sys2Proof.Machine

/-! ## Positions -/

theorem distance_add_self_of_lt {A x y : Nat} (hx : x < A) (hy : y < A) :
    distance A x y + distance A y x = if x = y then 0 else A := by
  have h1 := distance_spec hx hy
  have h2 := distance_spec hy hx
  split <;> omega

/-- Half an aperture away is behind (R8). -/
theorem isBehind_of_half {A x y : Nat} (hA : 0 < A) (h : 2 * distance A x y = A) : IsBehind A x y := by
  rcases signedDistance_cases A x y with ⟨_, _⟩ | ⟨_, _⟩ <;> unfold IsBehind <;> omega

/-- The signed distance is congruent to y - x modulo A (R8). -/
theorem signedDistance_congruent {A x y : Nat} (h : 0 < A) :
    ∃ n : Int, signedDistance A x y = y - x + n * A := by
  obtain ⟨n, hn⟩ := distance_congruent (x := x) (y := y) h
  rcases signedDistance_cases A x y with ⟨hs, _⟩ | ⟨hs, _⟩
  · exact ⟨n, hs.trans hn⟩
  · exact ⟨n - 1, by rw [hs, hn]; ring⟩

/-- A multiple of A that lies strictly between -A and A is 0. -/
theorem eq_of_congruent_of_near {A : Nat} {d e n : Int} (h : d - e = n * A) (lo : -(A : Int) < d - e)
    (hi : d - e < A) : d = e := by
  have : d - e = 0 := Int.eq_zero_of_abs_lt_dvd (m := (A : Int)) ⟨n, by rw [h]; ring⟩ (abs_lt.mpr ⟨lo, hi⟩)
  omega

/-- The signed distance is the only value in [-A/2, A/2) that is congruent to y - x modulo A (R8). -/
theorem signedDistance_unique {A x y : Nat} (h : 0 < A) {d n : Int} (hd : d = (y : Int) - x + n * A)
    (lo : -(A : Int) ≤ 2 * d) (hi : 2 * d < A) : d = signedDistance A x y := by
  obtain ⟨m, hm⟩ := signedDistance_congruent (x := x) (y := y) h
  have := signedDistance_range h x y
  exact eq_of_congruent_of_near (A := A) (n := n - m) (by rw [hm, hd]; ring) (by omega) (by omega)

/-- Two extents that start below A intersect exactly when a position lies in both (R9). -/
theorem Extent.intersects_iff {A : Nat} {e f : Extent} (he : e.start < A) (hf : f.start < A) :
    e.Intersects A f ↔ ∃ p, p < A ∧ e.Has A p ∧ f.Has A p := by
  have self : ∀ x < A, distance A x x = 0 := fun x hx => by simp [distance_of_lt hx hx]
  constructor
  · rintro ⟨le, lf, h | h⟩
    · exact ⟨f.start, hf, h, by unfold Extent.Has; rwa [self _ hf]⟩
    · exact ⟨e.start, he, by unfold Extent.Has; rwa [self _ he], h⟩
  · rintro ⟨p, hp, h1, h2⟩
    unfold Extent.Has at h1 h2
    refine ⟨by omega, by omega, ?_⟩
    have hep := distance_spec he hp
    have hfp := distance_spec hf hp
    have hef := distance_spec he hf
    have hfe := distance_spec hf he
    unfold Extent.Has
    omega

/-- Settles O6: the congruence and the range of the signed distance determine it, and of two extents with a common
position one starts in the other. -/
theorem signedDistanceAndIntersection : Obligations.SignedDistanceAndIntersection := by
  refine ⟨fun k x y _ hx hy => ?_, fun A e f => Extent.intersects_iff⟩
  have hA : 0 < 2 ^ k := by positivity
  have range := signedDistance_range hA x y
  have congruent := signedDistance_congruent (x := x) (y := y) hA
  push_cast at range congruent
  refine ⟨range, congruent, fun d n hd lo hi => ?_, fun half => ⟨isBehind_of_half hA half, isBehind_of_half hA ?_⟩⟩
  · exact signedDistance_unique hA (n := n) (by push_cast; exact hd) (by push_cast; exact lo) (by push_cast; exact hi)
  · have h := distance_add_self_of_lt hx hy
    split at h <;> omega

/-! ## The fold -/

theorem Structural.positionAfter_mod_capacity {c : Structural} (h : c.capacity ∣ c.apertureSize) (x n : Nat) :
    positionAfter c.apertureSize x n % c.capacity = (x + n) % c.capacity := Nat.mod_mod_of_dvd _ h

/-- The fold of the position `i` bytes after a start depends on their sum modulo C alone (R11). -/
theorem foldAddress_positionAfter {c : Structural} (h : c.capacity ∣ c.apertureSize) (start i : Nat) :
    foldAddress c (positionAfter c.apertureSize start i)
      = c.memoryBase.toNat + (start % c.capacity + i) % c.capacity := by
  rw [foldAddress, c.positionAfter_mod_capacity h, Nat.mod_add_mod]

/-- Offsets that do not reach C are laid out one after another (R11). -/
theorem map_range_add_mod {C r k : Nat} (m : Nat) (h : r + k ≤ C) :
    (List.range k).map (fun i => m + (r + i) % C) = List.range' (m + r) k := by
  rw [List.range'_eq_map_range]
  refine List.map_congr_left fun i hi => ?_
  rw [List.mem_range] at hi
  rw [Nat.mod_eq_of_lt (by omega), Nat.add_assoc]

/-- The parts of a request, laid end to end, are the folds of its bytes in stream order (R11, R12). -/
theorem foldParts_flatMap {c : Structural} (h : c.capacity ∣ c.apertureSize) {start n : Nat} (hn : n ≤ c.capacity) :
    (foldParts c start n).flatMap (fun p => List.range' p.memAddress p.length)
      = (List.range n).map fun i => foldAddress c (positionAfter c.apertureSize start i) := by
  have hr := Nat.mod_lt start c.capacity_pos
  simp only [foldAddress_positionAfter h]
  unfold foldParts
  dsimp only
  split
  · rename_i fits
    rw [map_range_add_mod _ fits]
    simp [foldAddress]
  · rename_i crosses
    obtain ⟨k, rfl⟩ := Nat.exists_eq_add_of_le (show c.capacity - start % c.capacity ≤ n by omega)
    have second : (List.range k).map ((fun i => c.memoryBase.toNat + (start % c.capacity + i) % c.capacity)
        ∘ fun j => c.capacity - start % c.capacity + j) = List.range' (c.memoryBase.toNat + 0) k := by
      rw [← map_range_add_mod _ (by omega : 0 + k ≤ c.capacity)]
      refine List.map_congr_left fun j _ => ?_
      rw [Function.comp_apply, ← Nat.add_assoc (start % _), Nat.add_sub_cancel' hr.le, Nat.add_mod_left, Nat.zero_add]
    rw [List.range_add, List.map_append, map_range_add_mod _ (by omega), List.map_map, second]
    simp [foldAddress]

/-- A request has one part, or two where it crosses the end of the memory span (R12). -/
theorem foldParts_length (c : Structural) (start n : Nat) :
    (foldParts c start n).length = 1 ∨ (foldParts c start n).length = 2 := by
  unfold foldParts
  dsimp only
  split
  · exact Or.inl rfl
  · exact Or.inr rfl

/-- The parts of a request hold its bytes, each once (R12). -/
theorem foldParts_sum (c : Structural) (start n : Nat) : ((foldParts c start n).map Part.length).sum = n := by
  unfold foldParts
  dsimp only
  split
  · simp
  · simp
    omega

/-- An advance of F passes a multiple of C exactly when it is a lap boundary (R16). -/
theorem isLapBoundary_iff {c : Structural} (h : c.capacity ∣ c.apertureSize) (f0 f1 : Nat) :
    IsLapBoundary c f0 f1 ↔
      ∃ k, 0 < k ∧ k ≤ distance c.apertureSize f0 f1 ∧ positionAfter c.apertureSize f0 k % c.capacity = 0 := by
  have hr := Nat.mod_lt f0 c.capacity_pos
  simp only [c.positionAfter_mod_capacity h]
  constructor
  · intro passes
    refine ⟨c.capacity - f0 % c.capacity, by omega, by unfold IsLapBoundary at passes; omega, ?_⟩
    rw [← Nat.mod_add_mod, Nat.add_sub_cancel' hr.le, Nat.mod_self]
  · rintro ⟨k, pos, le, multiple⟩
    rw [← Nat.mod_add_mod] at multiple
    have := Nat.le_of_dvd (by omega) (Nat.dvd_of_mod_eq_zero multiple)
    unfold IsLapBoundary
    omega

/-- Settles O7: the parts cut the request where its folds wrap to the span's base, and the first multiple of C after
f0 lies C - f0 mod C bytes ahead. -/
theorem foldAndLapBoundary : Obligations.FoldAndLapBoundary := by
  intro c h
  exact ⟨fun start n hn => ⟨foldParts_flatMap h hn, foldParts_sum c start n, foldParts_length c start n⟩,
    isLapBoundary_iff h⟩

/-! ## The aperture decoder -/

theorem State.any_rings_iff (s : State) (p : Ring → Bool) : s.rings.toList.any p = true ↔ ∃ r, p (s.ring r) = true := by
  rw [List.any_eq_true]
  constructor
  · rintro ⟨x, hx, hp⟩
    rw [Vector.mem_toList_iff, Vector.mem_iff_getElem] at hx
    obtain ⟨i, hi, rfl⟩ := hx
    exact ⟨⟨i, hi⟩, hp⟩
  · rintro ⟨r, hp⟩
    exact ⟨s.ring r, by simp [State.ring], hp⟩

/-- What each outcome of the aperture decoder says of the range it was asked about (the table of R2). -/
theorem State.classify_spec (s : State) (address length : Nat) :
    match s.classify address length with
    | .straddling => Config.addressSpace < address + length ∨ ∃ r, (s.ring r).state ≠ .off
        ∧ (s.ring r).MeetsAperture address length ∧ ¬ (s.ring r).HoldsInAperture address length
    | .ringRequest r => address + length ≤ Config.addressSpace ∧ (s.ring r).state ≠ .off
        ∧ (s.ring r).HoldsInAperture address length
    | .guarded => address + length ≤ Config.addressSpace ∧ s.guarded address length = true
        ∧ ∀ r, (s.ring r).state ≠ .off → ¬ (s.ring r).MeetsAperture address length
    | .passThrough => address + length ≤ Config.addressSpace ∧ s.guarded address length = false
        ∧ ∀ r, (s.ring r).state ≠ .off → ¬ (s.ring r).MeetsAperture address length := by
  unfold State.classify
  by_cases past : Config.addressSpace < address + length
  · rw [if_pos past]
    exact Or.inl past
  have within := Nat.le_of_not_lt past
  have edge_iff := s.any_rings_iff fun x => x.state != .off && decide (x.MeetsAperture address length)
    && !decide (x.HoldsInAperture address length)
  simp only [Bool.and_eq_true, bne_iff_ne, decide_eq_true_eq, Bool.not_eq_true', decide_eq_false_iff_not,
    and_assoc] at edge_iff
  rw [if_neg past]
  by_cases edge : ∃ r, (s.ring r).state ≠ .off ∧ (s.ring r).MeetsAperture address length
      ∧ ¬ (s.ring r).HoldsInAperture address length
  · rw [if_pos (edge_iff.mpr edge)]
    exact Or.inr edge
  rw [if_neg fun h => edge (edge_iff.mp h)]
  cases found : (List.finRange 16).find? (fun r => (s.ring r).state != .off
    && decide ((s.ring r).HoldsInAperture address length)) with
  | some r =>
    have holds := List.find?_some found
    simp only [Bool.and_eq_true, bne_iff_ne, decide_eq_true_eq] at holds
    exact ⟨within, holds⟩
  | none =>
    have outside : ∀ r, (s.ring r).state ≠ .off → ¬ (s.ring r).MeetsAperture address length := by
      intro r on meets
      have := List.find?_eq_none.mp found r (List.mem_finRange r)
      simp only [Bool.and_eq_true, bne_iff_ne, decide_eq_true_eq] at this
      exact edge ⟨r, on, meets, fun holds => this ⟨on, holds⟩⟩
    cases guarded : s.guarded address length with
    | true => exact ⟨within, rfl, outside⟩
    | false => exact ⟨within, rfl, outside⟩

/-- A range of at least one byte that does not lie within another has a byte outside it. -/
theorem exists_byte_outside {a n b m : Nat} (h : ¬ RangeWithin a n b m) (pos : 0 < n) :
    ∃ k, (a ≤ k ∧ k < a + n) ∧ ¬ (b ≤ k ∧ k < b + m) := by
  unfold RangeWithin at h
  by_cases below : a < b
  · exact ⟨a, by omega, by omega⟩
  · exact ⟨a + n - 1, by omega, by omega⟩

/-- Settles O15: ranges meet where they share a byte, and a range that is not within another has a byte outside it. -/
theorem classesAreToldByTheBytes : Obligations.ClassesAreToldByTheBytes := by
  intro s address length pos
  dsimp only
  have spec := s.classify_spec address length
  have meets {b m k : Nat} (h1 : address ≤ k ∧ k < address + length) (h2 : b ≤ k ∧ k < b + m) :
      RangesMeet address length b m := rangesMeet_iff.mpr ⟨k, h1, h2⟩
  revert spec
  cases s.classify address length with
  | straddling =>
    rintro (past | ⟨r, on, aperture, edge⟩)
    · exact Or.inl past
    · exact Or.inr ⟨r, on, rangesMeet_iff.mp aperture, exists_byte_outside edge pos⟩
  | ringRequest r =>
    rintro ⟨within, on, lo, hi⟩
    refine ⟨within, on, fun b ⟨h1, h2⟩ => ⟨le_trans lo h1, lt_of_lt_of_le h2 hi⟩⟩
  | guarded =>
    rintro ⟨within, guarded, outside⟩
    obtain ⟨r, on, span⟩ := (s.guarded_iff _ _).mp guarded
    exact ⟨within, ⟨r, on, rangesMeet_iff.mp span⟩, fun q hq b hb hin => outside q hq (meets hb hin)⟩
  | passThrough =>
    rintro ⟨within, open_, outside⟩
    refine ⟨within, fun r on b hb => ⟨fun hin => outside r on (meets hb hin), fun hin => ?_⟩⟩
    have := (s.guarded_iff address length).mpr ⟨r, on, meets hb hin⟩
    simp [open_] at this

/-! ## Acceptance -/

/-- Outside reset an event of the part takes place (R173). -/
theorem State.outOfReset_of {s : State} (h : s.inReset = false) (f : State → State) : s.outOfReset f = f s := by
  simp [State.outOfReset, h]

/-- A well-formed write carries its bytes and a well-formed read none, so no byte of a link is missing (R135). -/
theorem State.requestData_of_wellFormed (s : State) {q : Request} (h : q.WellFormed = true) :
    s.requestData q = q.data ∧ s.countRequest q = s := by
  unfold Request.WellFormed at h
  unfold State.requestData State.countRequest
  cases hd : q.direction with
  | read =>
    rw [hd] at h
    exact ⟨(List.isEmpty_iff.mp h).symm, rfl⟩
  | write =>
    rw [hd] at h
    have exact_ := eq_of_beq h
    exact ⟨s.linkBytes_exact exact_, s.countMissing_exact exact_⟩

theorem Request.data_length_le {q : Request} (h : q.WellFormed = true) : q.data.length ≤ q.length.toNat := by
  unfold Request.WellFormed at h
  cases hd : q.direction with
  | read =>
    rw [hd] at h
    simp [List.isEmpty_iff.mp h]
  | write =>
    rw [hd] at h
    exact (eq_of_beq h).le

theorem State.tagClash_iff (s : State) (q : Request) :
    s.tagClash q = true ↔ ∃ w x, s.txn w = some x ∧ x.master = q.master ∧ x.tag = q.tag := by
  unfold State.tagClash State.txn
  rw [List.any_eq_true]
  constructor
  · rintro ⟨o, ho, clash⟩
    rw [Vector.mem_toList_iff, Vector.mem_iff_getElem] at ho
    obtain ⟨i, hi, rfl⟩ := ho
    obtain ⟨x, hx, same⟩ := (Option.any_eq_true _ _).mp clash
    exact ⟨⟨i, hi⟩, x, hx, by simpa using same⟩
  · rintro ⟨w, x, hx, same⟩
    exact ⟨s.sys.table[w.val], by simp, by simpa [hx] using same⟩

/-- A request that passes the protocol checks is classified in the acceptance event, from a state that differs from
the one before in the request's entry and its master's count alone (R137, R139, R142). -/
theorem State.acceptInto_decodes (s : State) {q : Request} {u : TxnNo} (wf : q.WellFormed = true)
    (pos : 0 < q.length.toNat) (le : q.length.toNat ≤ 256)
    (tags : ∀ w x, s.txn w = some x → x.master = q.master → x.tag ≠ q.tag) :
    ∃ b : State, s.acceptInto u q = b.decodeRequest u (acceptedTxn q q.data)
      ∧ b.rings = s.rings ∧ b.awaiting = s.awaiting ∧ b.mem = s.mem ∧ b.freeCount = s.freeCount
      ∧ b.sys.readyOrder = s.sys.readyOrder := by
  obtain ⟨data, count⟩ := s.requestData_of_wellFormed wf
  obtain ⟨b, accepted, -, -, ready, -, -, -, -, -, rings, awaiting, -, mem, -, free, -⟩ := s.acceptInto_base q u
  rw [data, if_neg] at accepted
  · exact ⟨b, accepted, rings, awaiting, mem, by rw [free, count], ready⟩
  · rintro (zero | long | clash)
    · omega
    · exact absurd long (by unfold Config.longestRequest; omega)
    · obtain ⟨w, x, hx, hm, ht⟩ := (s.tagClash_iff q).mp clash
      exact tags w x hx hm ht

/-- The class of a range depends on the rings alone (R2). -/
theorem State.classify_congr {s t : State} (h : s.rings = t.rings) (address length : Nat) :
    s.classify address length = t.classify address length := by
  unfold State.classify State.guarded State.ring
  rw [h]

/-- A request that is rejected is READY at the tail of the ready order, with its class and its status (R3, R4, R6). -/
theorem State.txn_reject (s : State) (u : TxnNo) (x : Txn) (a : Status) :
    ((s.setTxn u (some { x with cls := some .reject })).answer u a).txn u
      = some { x with cls := some .reject, stage := .ready, status := some a, data := [] } := by
  rw [State.txn_answer, if_pos rfl, State.txn_setTxn_self]
  rfl

theorem State.readyOrder_reject (s : State) (u : TxnNo) (x : Txn) (a : Status) :
    ((s.setTxn u (some x)).answer u a).sys.readyOrder = s.sys.readyOrder ++ [u] :=
  State.answer_readyOrder_of_some _ (State.txn_setTxn_self _ _ _) _ _

/-- Settles O14: the acceptance goes to the classification of the entry as it was filled, class by class. -/
theorem classificationDecidesAcceptedRequest : Obligations.ClassificationDecidesAcceptedRequest := by
  intro q s u reset accepts wf free lowest pos le tags
  obtain ⟨b, accepted, rings, awaiting, mem, freeCount, ready⟩ := s.acceptInto_decodes (u := u) wf pos le tags
  have taken : exec (.requestAcceptance q) s = .next (b.decodeRequest u (acceptedTxn q q.data)) := by
    rw [← accepted]
    simp only [exec, execRequestAcceptance, State.outOfReset_of reset, State.acceptRequest, accepts,
      s.freeTxn_of_lowest free lowest, if_true]
  have cls : b.classify (acceptedTxn q q.data).address.toNat (acceptedTxn q q.data).length
      = s.classify q.address.toNat q.length.toNat := State.classify_congr rings _ _
  rw [taken]
  unfold State.decodeRequest
  rw [cls]
  cases s.classify q.address.toNat q.length.toNat with
  | straddling =>
    exact ⟨_, _, rfl, b.txn_reject u _ _, by simpa using freeCount, rfl, rfl, rfl, rfl, rfl, rfl, rfl,
      by rw [State.readyOrder_reject, ready], by simpa using awaiting, by simpa using mem⟩
  | guarded =>
    exact ⟨_, _, rfl, b.txn_reject u _ _, by simpa using freeCount, rfl, rfl, rfl, rfl, rfl, rfl, rfl,
      by rw [State.readyOrder_reject, ready], by simpa using awaiting, by simpa using mem⟩
  | ringRequest r =>
    have ring : b.ring r = s.ring r := State.ring_congr rings r
    refine ⟨_, _, rfl, State.txn_setTxn_self _ _ _, freeCount, rfl, rfl, rfl, rfl, ?_, ?_, ?_,
      congrArg (· ++ [u]) awaiting, ready, mem⟩
    · cases hd : q.direction <;> simp [acceptedTxn, hd]
    · rw [ring]
      rfl
    · rw [ring]
      rfl
  | passThrough =>
    refine ⟨_, _, rfl, (State.txn_enqueueParts _ _ _ _ _).trans (if_pos rfl), freeCount, rfl, rfl, rfl, rfl, rfl, rfl,
      rfl, rfl, ?_, awaiting, ready⟩
    rw [State.enqueueParts_queue, mem]
    simp [partOperations, acceptedTxn, List.take_of_length_le (Request.data_length_le wf)]

/-! ## Read admission -/

/-- READ_ADMISSION takes the oldest admission when it is a ring read's (R3, R69). -/
theorem State.takeOldestAdmission_of (s : State) {u : TxnNo} {rest : List TxnNo} {x : Txn} {r : RingNo} {e : Extent}
    {d : Direction} (take : State → TxnNo → Txn → RingNo → Extent → State) (awaiting : s.awaiting = u :: rest)
    (txn : s.txn u = some x) (direction : x.direction = d) (ring : x.ring = some r) (range : x.range = some e) :
    s.takeOldestAdmission d take = take { s with awaiting := rest } u x r e := by
  unfold State.takeOldestAdmission
  simp only [awaiting, txn, ring, range, direction, if_true]

/-- The consume part in the order in which R70's table asks. -/
theorem consumePart_eq (x : Ring) (cls : RequestClass) (e : Extent) :
    consumePart x cls e = if cls ≠ .consume then none
      else if ¬ IsBeyond x.A x.D e.stop then none
      else if IsAtOrAhead x.A x.D e.start then some e
      else some ⟨x.D, e.stop⟩ := by
  unfold consumePart
  by_cases consume : cls = .consume
  · by_cases beyond : IsBeyond x.A x.D e.stop
    · rw [if_pos ⟨consume, beyond⟩, if_neg (not_not.mpr consume), if_neg (not_not.mpr beyond)]
    · rw [if_neg fun h => beyond h.2, if_neg (not_not.mpr consume), if_pos beyond]
  · rw [if_neg fun h => consume h.1, if_pos consume]

/-- What becomes of a read with each outcome of its checks (R73 to R82). -/
def State.readOutcome (s : State) (u : TxnNo) (y : Txn) (r : RingNo) (part : Option Extent) : ReadOutcome → State
  | .answer status => s.answer u status
  | .hold => s.askHold u y r .underrun
  | .poisoned => s.poisonedRead u r part
  | .admitted => (s.setRing r ((s.ring r).placeRead u part .inFlight)).enqueueParts u y .ring

theorem State.takeRead_eq (s : State) (u : TxnNo) (x : Txn) (r : RingNo) (e : Extent) :
    s.takeRead u x r e =
      if x.cleared then (s.setTxn u (some { x with cls := some (readClass (s.ring r) x.master) })).answer u .stopped
      else (s.setTxn u (some { x with cls := some (readClass (s.ring r) x.master) })).readOutcome u
        { x with cls := some (readClass (s.ring r) x.master) } r
        (consumePart (s.ring r) (readClass (s.ring r) x.master) e)
        (judgeRead (s.ring r) (readClass (s.ring r) x.master) e) := by
  unfold State.takeRead
  dsimp only [State.ring_setTxn]
  split
  · rfl
  · cases judgeRead (s.ring r) (readClass (s.ring r) x.master) e <;> rfl

/-- The outcome of the checks, check by check, in their order (the table of R73). -/
theorem State.readOutcome_judgeRead (s : State) (u : TxnNo) (y : Txn) (r : RingNo) (part : Option Extent) (x : Ring)
    (cls : RequestClass) (e : Extent) :
    s.readOutcome u y r part (judgeRead x cls e) =
      if x.state = .halted then s.answer u .halted
      else if x.state = .clearing ∨ x.state = .off then s.answer u .stopped
      else if cls = .reject then s.answer u .refused
      else if IsBehind x.A x.K e.start then s.answer u .stale
      else if (x.C : Int) < signedDistance x.A x.D e.stop then s.answer u .range
      else if x.BeyondFill e.stop then
        if cls = .consume ∧ x.active.underrun = .wait ∧ x.state = .active then s.askHold u y r .underrun
        else s.answer u .empty
      else if ∃ c, consumePart x cls e = some c ∧ ∃ f ∈ x.drain, c.Intersects x.A f.extent then s.answer u .overlap
      else if consumePart x cls e ≠ none ∧ 12 ≤ x.drain.length then s.answer u .busy
      else if ∃ p ∈ x.poison, e.Intersects x.A p then s.poisonedRead u r part
      else (s.setRing r ((s.ring r).placeRead u part .inFlight)).enqueueParts u y .ring := by
  have overlap : (consumePart x cls e).any (fun c => x.drain.any fun f => decide (c.Intersects x.A f.extent)) = true
      ↔ ∃ c, consumePart x cls e = some c ∧ ∃ f ∈ x.drain, c.Intersects x.A f.extent := by
    simp only [Option.any_eq_true, List.any_eq_true, decide_eq_true_eq]
  have busy : ((consumePart x cls e).isSome ∧ Config.scoreboardSize ≤ x.drain.length)
      ↔ consumePart x cls e ≠ none ∧ 12 ≤ x.drain.length := by
    rw [Option.isSome_iff_ne_none]
    rfl
  have poisoned : x.poison.any (fun p => decide (e.Intersects x.A p)) = true
      ↔ ∃ p ∈ x.poison, e.Intersects x.A p := by
    simp only [List.any_eq_true, decide_eq_true_eq]
  unfold judgeRead
  simp only [overlap, busy, poisoned, apply_ite (s.readOutcome u y r part)]
  rfl

/-- Settles O23: the class of R69 and the consume part of R70 are the model's, and each outcome of the checks is the
one that R73 to R82 give. -/
theorem readChecksDecideInOrder : Obligations.ReadChecksDecideInOrder := by
  refine ⟨fun s u rest x r e reset awaiting txn direction ring range => ?_, fun s u x r e => ?_⟩
  · simp only [exec, execReadAdmission, State.outOfReset_of reset]
    rw [s.takeOldestAdmission_of _ awaiting txn direction ring range]
  · rw [State.takeRead_eq, State.readOutcome_judgeRead]
    simp only [← consumePart_eq]
    rfl

/-! ## The end of a part -/

theorem Part.ended_endBy (o : Outstanding) (status : MemoryStatus) (data : List Byte) (p : Part) :
    p.ended (o.endBy status data) = { p with
      result := if status = .ok then .ok else .failed
      data := if status = .ok ∧ o.direction = .read then data else [] } := by
  unfold Outstanding.endBy
  cases status <;> cases o.direction <;> simp [Part.ended]

/-- Settles O29: the report of the end records it in the entry, and with a part still outstanding no end of the request
and neither of the two tests follows. -/
theorem firstEndOfTwoIsRecorded : Obligations.FirstEndOfTwoIsRecorded := by
  intro s o x r id status data reset running distinct member names live txn ring two clear length
  have more : (x.endPart o.part (o.endBy status data)).outstanding ≠ 0 := by
    show x.outstanding - 1 ≠ 0
    omega
  simp only [exec, execMemoryResponse, State.outOfReset_of reset]
  rw [s.takeResponse_live distinct member names live length,
    State.reportEnd_ring _ ((s.txn_freeOperation _ _).trans txn) ring, if_neg more, State.testClearEnd_of_ne,
    State.testResetCompletion_of_running]
  · simp only [Txn.endPart, Part.ended_endBy]
    rfl
  · exact running
  · exact clear

end Sys2Proof.Machine
end

section
/-! Positions seen from a frontier, and extents in stream order under the operations of the scoreboards and of the
poison list: a turn, a merge, an insertion, an absorption, a cut. -/

namespace Sys2Proof.Machine

/-! ## Positions seen from a frontier -/

/-- Of two positions, the one further from an origin lies ahead of the other by the difference. -/
theorem distance_add_distance {A a m p : Nat} (ha : a < A) (hm : m < A) (hp : p < A)
    (h : distance A a m ≤ distance A a p) : distance A a m + distance A m p = distance A a p := by
  have := distance_spec ha hm
  have := distance_spec ha hp
  have := distance_spec hm hp
  omega

/-- Of two positions, the one further behind an end lies behind the other by the difference. -/
theorem distance_add_distance_of_end {A p q r : Nat} (hp : p < A) (hq : q < A) (hr : r < A)
    (h : distance A q r ≤ distance A p r) : distance A p q + distance A q r = distance A p r := by
  have := distance_spec hp hq
  have := distance_spec hq hr
  have := distance_spec hp hr
  omega

/-- Distances along a way shorter than the aperture add up. -/
theorem distance_chain {A p q r : Nat} (hp : p < A) (hq : q < A) (hr : r < A)
    (short : distance A p q + distance A q r < A) : distance A p r = distance A p q + distance A q r := by
  have := distance_spec hp hq
  have := distance_spec hq hr
  have := distance_spec hp hr
  omega

theorem distance_self {A a : Nat} (ha : a < A) : distance A a a = 0 := by simp [distance_of_lt ha ha]

/-- Positions with the same distance from an origin are the same. -/
theorem eq_of_distance_eq {A a p q : Nat} (ha : a < A) (hp : p < A) (hq : q < A)
    (h : distance A a p = distance A a q) : p = q := by
  have := distance_spec ha hp
  have := distance_spec ha hq
  omega

/-- Where two positions are less than half an aperture apart, their signed distance is the difference of their
distances from any origin (R8). -/
theorem signedDistance_eq_sub {A a m p : Nat} (ha : a < A) (hm : m < A) (hp : p < A)
    (lo : -(A : Int) ≤ 2 * ((distance A a p : Int) - distance A a m))
    (hi : 2 * ((distance A a p : Int) - distance A a m) < A) :
    signedDistance A m p = (distance A a p : Int) - distance A a m := by
  have := distance_spec ha hm
  have := distance_spec ha hp
  have := distance_spec hm hp
  rcases signedDistance_cases A m p with ⟨h, _⟩ | ⟨h, _⟩ <;> omega

theorem positionAfter_lt {A : Nat} (h : 0 < A) (x n : Nat) : positionAfter A x n < A := Nat.mod_lt _ h

theorem positionBefore_lt {A : Nat} (h : 0 < A) (x n : Nat) : positionBefore A x n < A := Nat.mod_lt _ h

theorem distance_positionAfter {A x n : Nat} (hx : x < A) (hn : n < A) : distance A x (positionAfter A x n) = n := by
  have spec := distance_spec hx (positionAfter_lt (by omega) x n)
  have after := positionAfter_of_lt hx hn
  split at after <;> omega

theorem distance_positionBefore {A x n : Nat} (hx : x < A) (hn : n < A) : distance A (positionBefore A x n) x = n := by
  have spec := distance_spec (positionBefore_lt (by omega) x n) hx
  have before := positionBefore_of_lt hx hn
  split at before <;> omega

/-! ## Extents in stream order -/

/-- An extent lies within [start, stop) and is not empty. -/
abbrev Extent.Within (A start stop : Nat) (e : Extent) : Prop :=
  e.start < A ∧ e.stop < A ∧ distance A start e.start < distance A start e.stop
    ∧ distance A start e.stop ≤ distance A start stop

/-- One extent ends before the other begins, seen from a frontier. -/
abbrev Extent.Before (A start : Nat) (e f : Extent) : Prop := distance A start e.stop ≤ distance A start f.start

section
variable {A a b m C : Nat}

@[simp] theorem inOrder_nil : InOrder A a b [] := ⟨by simp, List.Pairwise.nil⟩

theorem inOrder_cons {e : Extent} {l : List Extent} :
    InOrder A a b (e :: l) ↔ e.Within A a b ∧ (∀ f ∈ l, e.Before A a f) ∧ InOrder A a b l := by
  constructor
  · rintro ⟨within, apart⟩
    rw [List.pairwise_cons] at apart
    exact ⟨within e List.mem_cons_self, apart.1, fun f hf => within f (List.mem_cons_of_mem _ hf), apart.2⟩
  · rintro ⟨he, before, within, apart⟩
    refine ⟨fun f hf => ?_, List.pairwise_cons.mpr ⟨before, apart⟩⟩
    rcases List.mem_cons.mp hf with rfl | hf
    · exact he
    · exact within f hf

/-- Some of the extents, in their order, are in order. -/
theorem InOrder.sublist {l l' : List Extent} (h : InOrder A a b l) (sub : l'.Sublist l) : InOrder A a b l' :=
  ⟨fun e he => h.within e (sub.mem he), h.apart.sublist sub⟩

/-- A bound further ahead holds all the more. -/
theorem InOrder.mono {l : List Extent} {c : Nat} (h : InOrder A a b l) (le : distance A a b ≤ distance A a c) :
    InOrder A a c l :=
  ⟨fun e he => by
    obtain ⟨h1, h2, h3, h4⟩ := h.within e he
    exact ⟨h1, h2, h3, h4.trans le⟩, h.apart⟩

/-- Extents that begin at or ahead of a later origin are in order from there too. -/
theorem InOrder.rebase {l : List Extent} (h : InOrder A a b l) (ha : a < A) (hb : b < A) (hm : m < A)
    (ahead : ∀ e ∈ l, distance A a m ≤ distance A a e.start) (le : distance A a m ≤ distance A a b) :
    InOrder A m b l := by
  have end_ := distance_add_distance ha hm hb le
  have seen : ∀ e ∈ l, distance A a m + distance A m e.start = distance A a e.start
      ∧ distance A a m + distance A m e.stop = distance A a e.stop := by
    intro e he
    obtain ⟨h1, h2, h3, -⟩ := h.within e he
    have := ahead e he
    exact ⟨distance_add_distance ha hm h1 this, distance_add_distance ha hm h2 (by omega)⟩
  refine ⟨fun e he => ?_, ?_⟩
  · obtain ⟨h1, h2, h3, h4⟩ := h.within e he
    obtain ⟨s1, s2⟩ := seen e he
    exact ⟨h1, h2, by omega, by omega⟩
  · refine h.apart.imp_of_mem fun {e f} he hf before => ?_
    have := (seen e he).2
    have := (seen f hf).1
    omega

/-- An extent that begins at the frontier moves it to its end: what follows is in order from there. -/
theorem InOrder.absorb {e : Extent} {l : List Extent} (h : InOrder A a b (e :: l)) (ha : a < A) (hb : b < A) :
    InOrder A e.stop b l := by
  obtain ⟨⟨h1, h2, h3, h4⟩, before, rest⟩ := inOrder_cons.mp h
  exact rest.rebase ha hb h2 before h4

/-! ## A turn and a merge -/

@[simp] theorem turnEntry_extents (t : TxnNo) (state : EntryState) (l : List ScoreEntry) :
    (turnEntry t state l).map ScoreEntry.extent = l.map ScoreEntry.extent := by
  unfold turnEntry
  rw [List.map_map]
  refine List.map_congr_left fun e _ => ?_
  simp only [Function.comp_apply]
  split <;> rfl

/-- A merged entry begins where one of the merged ones begins (R61, R85). -/
theorem mergeLanded_start {l : List ScoreEntry} {g : ScoreEntry} (h : g ∈ mergeLanded l) :
    ∃ f ∈ l, f.extent.start = g.extent.start := by
  induction l generalizing g with
  | nil => cases h
  | cons e rest ih =>
    unfold mergeLanded at h
    split at h
    · exact ⟨e, List.mem_cons_self, by rw [List.mem_singleton.mp h]⟩
    · rename_i f more merged
      have later : ∀ g ∈ f :: more, ∃ f ∈ e :: rest, f.extent.start = g.extent.start := by
        intro g hg
        obtain ⟨k, hk, same⟩ := ih (merged ▸ hg)
        exact ⟨k, List.mem_cons_of_mem _ hk, same⟩
      split at h
      · rcases List.mem_cons.mp h with rfl | h
        · exact ⟨e, List.mem_cons_self, rfl⟩
        · exact later g (List.mem_cons_of_mem _ h)
      · rcases List.mem_cons.mp h with rfl | h
        · exact ⟨g, List.mem_cons_self, rfl⟩
        · exact later g h

/-- Entries that touch and are merged stay in order (R61, R85). -/
theorem InOrder.merge {l : List ScoreEntry} (h : InOrder A a b (l.map ScoreEntry.extent)) :
    InOrder A a b ((mergeLanded l).map ScoreEntry.extent) := by
  induction l with
  | nil => exact h
  | cons e rest ih =>
    rw [List.map_cons, inOrder_cons] at h
    obtain ⟨⟨h1, h2, h3, h4⟩, before, tail⟩ := h
    have merged := ih tail
    have ahead : ∀ g ∈ mergeLanded rest, distance A a e.extent.stop ≤ distance A a g.extent.start := by
      intro g hg
      obtain ⟨f, hf, same⟩ := mergeLanded_start hg
      exact same ▸ before f.extent (List.mem_map_of_mem hf)
    unfold mergeLanded
    split
    · exact inOrder_cons.mpr ⟨⟨h1, h2, h3, h4⟩, by simp, inOrder_nil⟩
    · rename_i f more found
      rw [found] at merged ahead
      have ahead_f := ahead f List.mem_cons_self
      split
      · rw [List.map_cons, inOrder_cons] at merged ⊢
        obtain ⟨⟨g1, g2, g3, g4⟩, after, last⟩ := merged
        exact ⟨⟨h1, g2, h3.trans (ahead_f.trans_lt g3), g4⟩, after, last⟩
      · rw [List.map_cons, inOrder_cons]
        refine ⟨⟨h1, h2, h3, h4⟩, fun g hg => ?_, merged⟩
        obtain ⟨k, hk, rfl⟩ := List.mem_map.mp hg
        exact ahead k hk

/-! ## An insertion -/

theorem mem_insertEntry {frontier : Nat} {e g : ScoreEntry} {l : List ScoreEntry} :
    g ∈ insertEntry A frontier e l ↔ g = e ∨ g ∈ l := by
  induction l with
  | nil => simp [insertEntry]
  | cons f rest ih =>
    unfold insertEntry
    split
    · simp
    · rw [List.mem_cons, ih, List.mem_cons]
      tauto

/-- Two extents within [a, b) that do not intersect lie one before the other (R9). -/
theorem Extent.before_or_before {e f : Extent} (ha : a < A) (he : e.Within A a b) (hf : f.Within A a b)
    (apart : ¬ e.Intersects A f) : e.Before A a f ∨ f.Before A a e := by
  obtain ⟨e1, e2, e3, -⟩ := he
  obtain ⟨f1, f2, f3, -⟩ := hf
  by_contra overlap
  rw [not_or] at overlap
  have le := distance_add_distance ha e1 e2 e3.le
  have lf := distance_add_distance ha f1 f2 f3.le
  refine apart ⟨by unfold Extent.length; omega, by unfold Extent.length; omega, ?_⟩
  unfold Extent.Has Extent.length
  unfold Extent.Before at overlap
  rcases Nat.le_total (distance A a e.start) (distance A a f.start) with h | h
  · have := distance_add_distance ha e1 f1 h
    exact Or.inl (by omega)
  · have := distance_add_distance ha f1 e1 h
    exact Or.inr (by omega)

/-- Within half an aperture ahead of a frontier the signed distance is the distance. -/
theorem signedDistance_of_ahead {p : Nat} (h : 2 * distance A a p < A) : signedDistance A a p = distance A a p := by
  unfold signedDistance
  rw [if_pos h]

/-- An extent that intersects none of those in order is inserted at its sorted place among them (R43, R71). -/
theorem InOrder.insert {l : List ScoreEntry} {e : ScoreEntry} (h : InOrder A a b (l.map ScoreEntry.extent)) (ha : a < A)
    (near : 2 * distance A a b < A) (he : e.extent.Within A a b)
    (apart : ∀ f ∈ l, ¬ e.extent.Intersects A f.extent) :
    InOrder A a b ((insertEntry A a e l).map ScoreEntry.extent) := by
  induction l with
  | nil => exact inOrder_cons.mpr ⟨he, by simp, inOrder_nil⟩
  | cons f rest ih =>
    rw [List.map_cons, inOrder_cons] at h
    obtain ⟨hf, before, tail⟩ := h
    have side := Extent.before_or_before ha he hf (apart f List.mem_cons_self)
    obtain ⟨e1, e2, e3, e4⟩ := id he
    obtain ⟨f1, f2, f3, f4⟩ := id hf
    unfold Extent.Before at side
    unfold insertEntry
    rw [signedDistance_of_ahead (by omega), signedDistance_of_ahead (by omega)]
    split
    · refine inOrder_cons.mpr ⟨he, fun g hg => ?_, inOrder_cons.mpr ⟨hf, before, tail⟩⟩
      unfold Extent.Before
      rcases List.mem_cons.mp hg with rfl | hg
      · omega
      · have := before g hg
        omega
    · refine inOrder_cons.mpr ⟨hf, fun g hg => ?_, ih tail fun g hg => apart g (List.mem_cons_of_mem _ hg)⟩
      obtain ⟨k, hk, rfl⟩ := List.mem_map.mp hg
      rcases mem_insertEntry.mp hk with rfl | hk
      · unfold Extent.Before
        omega
      · exact before k.extent (List.mem_map_of_mem hk)

/-! ## A cut -/

/-- What a new frontier leaves of an extent (R55, R57). -/
def Extent.cut (A m : Nat) (e : Extent) : Option Extent :=
  if IsBeyond A m e.stop then if IsBehind A m e.start then some ⟨m, e.stop⟩ else some e else none

theorem retirePoison_eq (l : List Extent) : retirePoison A m l = l.filterMap (Extent.cut A m) := rfl

theorem cutDrain_extents (l : List ScoreEntry) :
    (cutDrain A m l).map ScoreEntry.extent = (l.map ScoreEntry.extent).filterMap (Extent.cut A m) := by
  unfold cutDrain
  rw [List.map_filterMap, List.filterMap_map]
  refine List.filterMap_congr fun e _ => ?_
  unfold Extent.cut
  simp only [Function.comp_apply]
  (repeat' split) <;> rfl

/-- What a cut leaves of an extent within [a, b): its part ahead of the new frontier, if there is one. -/
theorem Extent.cut_spec {e f : Extent} (ha : a < A) (hb : b < A) (hm : m < A) (near : 2 * distance A a b < A)
    (hmb : distance A a m ≤ distance A a b) (he : e.Within A a b) (hf : e.cut A m = some f) :
    f.Within A m b ∧ f.stop = e.stop ∧ distance A a m ≤ distance A a f.start
      ∧ distance A a e.start ≤ distance A a f.start := by
  obtain ⟨e1, e2, e3, e4⟩ := he
  have stop_ := signedDistance_eq_sub ha hm e2 (by omega) (by omega)
  have start_ := signedDistance_eq_sub ha hm e1 (by omega) (by omega)
  have hbm := distance_add_distance ha hm hb hmb
  unfold Extent.cut IsBeyond IsBehind at hf
  rw [stop_, start_] at hf
  split at hf
  · rename_i beyond
    have hem := distance_add_distance ha hm e2 (by omega)
    split at hf
    · cases hf
      have self := distance_self hm
      dsimp only [Extent.Within]
      omega
    · cases hf
      have := distance_add_distance ha hm e1 (by omega)
      dsimp only [Extent.Within]
      omega
  · cases hf

/-- Extents in order are, cut to a frontier ahead, in order from there (R55, R57). -/
theorem InOrder.cut {l : List Extent} (h : InOrder A a b l) (ha : a < A) (hb : b < A) (hm : m < A)
    (near : 2 * distance A a b < A) (hmb : distance A a m ≤ distance A a b) :
    InOrder A m b (l.filterMap (Extent.cut A m)) := by
  refine ⟨fun f hf => ?_, ?_⟩
  · obtain ⟨e, he, hef⟩ := List.mem_filterMap.mp hf
    exact (Extent.cut_spec ha hb hm near hmb (h.within e he) hef).1
  · rw [List.pairwise_filterMap]
    refine h.apart.imp_of_mem fun {e g} he hg before f hf k hk => ?_
    obtain ⟨⟨-, f2, -, f4⟩, fstop, -, -⟩ := Extent.cut_spec ha hb hm near hmb (h.within e he) hf
    obtain ⟨⟨k1, -, -, -⟩, -, kahead, kstart⟩ := Extent.cut_spec ha hb hm near hmb (h.within g hg) hk
    have := distance_add_distance ha hm hb hmb
    have := distance_add_distance ha hm k1 kahead
    have := distance_spec ha f2
    have := distance_spec ha hm
    have := distance_spec hm f2
    rw [← fstop] at before
    omega

end

end Sys2Proof.Machine
end

section
/-! The streams of one ring: what each operation of the ring engine does to the order of the frontiers and to the places
of the entries among them. -/

namespace Sys2Proof.Machine

/-! ## The order of a stream and the side of its level monitor -/

/-- What `Ring.StreamSound` says of a ring apart from the side of its level monitor. An event keeps this at every
point; the side agrees again once the level is evaluated. -/
structure Ring.StreamOrdered (x : Ring) : Prop where
  sizes : Config.longestRequest ≤ x.C ∧ 4 * x.C ≤ x.A
  positions : x.D < x.A ∧ x.F < x.A ∧ x.W < x.A ∧ x.K < x.A
  frontiers : x.FrontiersOrdered
  fill : InOrder x.A x.F x.W (x.fill.map ScoreEntry.extent)
  drain : InOrder x.A x.D x.F (x.drain.map ScoreEntry.extent)
  poison : InOrder x.A x.K x.F x.poison
  marks : x.active.lowMark.toNat < x.active.highMark.toNat

theorem Ring.streamSound_iff {x : Ring} : x.StreamSound ↔ x.StreamOrdered ∧ x.SideAgrees :=
  ⟨fun h => ⟨⟨h.sizes, h.positions, h.frontiers, h.fill, h.drain, h.poison, h.marks⟩, h.side⟩,
    fun ⟨h, side⟩ => ⟨h.sizes, h.positions, h.frontiers, h.fill, h.drain, h.poison, h.marks, side⟩⟩

/-- Two rings that agree in what a stream is made of. -/
structure Ring.SameStream (x y : Ring) : Prop where
  structural : y.structural = x.structural := by rfl
  D : y.D = x.D := by rfl
  F : y.F = x.F := by rfl
  W : y.W = x.W := by rfl
  K : y.K = x.K := by rfl
  fill : y.fill = x.fill := by rfl
  drain : y.drain = x.drain := by rfl
  poison : y.poison = x.poison := by rfl

section
variable {x y : Ring}

theorem Ring.StreamOrdered.of_same (h : x.StreamOrdered) (same : x.SameStream y)
    (marks : y.active.lowMark.toNat < y.active.highMark.toNat) : y.StreamOrdered := by
  obtain ⟨structural, D, F, W, K, fill, drain, poison⟩ := same
  have A : y.A = x.A := by rw [Ring.A, structural, Ring.A]
  have C : y.C = x.C := by rw [Ring.C, structural, Ring.C]
  refine ⟨?_, ?_, ?_, ?_, ?_, ?_, marks⟩
  · rw [A, C]
    exact h.sizes
  · rw [A, D, F, W, K]
    exact h.positions
  · unfold Ring.FrontiersOrdered
    rw [A, C, D, F, W, K]
    exact h.frontiers
  · rw [A, F, W, fill]
    exact h.fill
  · rw [A, D, F, drain]
    exact h.drain
  · rw [A, F, K, poison]
    exact h.poison

theorem Ring.SideAgrees.of_same (h : x.SideAgrees) (structural : y.structural = x.structural) (D : y.D = x.D)
    (F : y.F = x.F) (active : y.active = x.active) (side : y.side = x.side) : y.SideAgrees := by
  unfold Ring.SideAgrees Ring.level at *
  rw [side, active, structural, D, F]
  exact h

theorem Ring.StreamOrdered.setFill (h : x.StreamOrdered) {l : List ScoreEntry}
    (order : InOrder x.A x.F x.W (l.map ScoreEntry.extent)) : Ring.StreamOrdered { x with fill := l } :=
  ⟨h.sizes, h.positions, h.frontiers, order, h.drain, h.poison, h.marks⟩

theorem Ring.StreamOrdered.setDrain (h : x.StreamOrdered) {l : List ScoreEntry}
    (order : InOrder x.A x.D x.F (l.map ScoreEntry.extent)) : Ring.StreamOrdered { x with drain := l } :=
  ⟨h.sizes, h.positions, h.frontiers, h.fill, order, h.poison, h.marks⟩

/-- After an evaluation the side agrees with the level, since the low mark lies below the high mark (R122). -/
theorem Ring.evaluatedSide_agrees (marks : x.active.lowMark.toNat < x.active.highMark.toNat) :
    Ring.SideAgrees { x with side := x.evaluatedSide } := by
  unfold Ring.SideAgrees Ring.evaluatedSide
  cases hs : x.side with
  | low =>
    by_cases filled : x.active.highMark.toNat ≤ x.level
    · simp only [if_pos filled]
      exact lt_of_lt_of_le marks filled
    · simp only [if_neg filled]
      exact Nat.lt_of_not_le filled
  | high =>
    by_cases drained : x.level ≤ x.active.lowMark.toNat
    · simp only [if_pos drained]
      exact lt_of_le_of_lt drained marks
    · simp only [if_neg drained]
      exact Nat.lt_of_not_le drained

/-- A live set that passes the checks has its low mark below its high mark (R22, R26). -/
theorem Live.marks_of_refusal {l : Live} {C : Nat} (h : l.refusal C = none) : l.lowMark.toNat < l.highMark.toNat := by
  unfold Live.refusal at h
  split at h
  · cases h
  · rename_i marks
    omega

/-- An apply attempt keeps the stream, and puts a set in force only if it passed the checks (R22). -/
theorem Ring.StreamOrdered.attemptApply (h : x.StreamOrdered) : x.attemptApply.StreamOrdered := by
  unfold Ring.attemptApply
  split
  · rename_i passes
    exact h.of_same {} (Live.marks_of_refusal passes)
  · exact h.of_same {} h.marks

/-! ## Absorption -/

/-- The numbers behind a stream's order. -/
theorem Ring.StreamOrdered.numbers (h : x.StreamOrdered) :
    256 ≤ x.C ∧ 4 * x.C ≤ x.A ∧ x.D < x.A ∧ x.F < x.A ∧ x.W < x.A ∧ x.K < x.A
      ∧ distance x.A x.K x.D + distance x.A x.D x.F + distance x.A x.F x.W ≤ x.C :=
  ⟨h.sizes.1, h.sizes.2, h.positions.1, h.positions.2.1, h.positions.2.2.1, h.positions.2.2.2, h.frontiers⟩

/-- F moves over the first fill entry to its end, with the poison list that then holds (R62). -/
theorem Ring.StreamOrdered.absorbOne (h : x.StreamOrdered) {e : ScoreEntry} {rest : List ScoreEntry}
    {list : List Extent}
    (fill : x.fill = e :: rest)
    (poison : InOrder x.A x.K e.extent.stop list) :
    Ring.StreamOrdered { x with fill := rest, F := e.extent.stop, poison := list } := by
  obtain ⟨hC, hA, hD, hF, hW, hK, order⟩ := h.numbers
  have fillOrder := h.fill
  rw [fill, List.map_cons] at fillOrder
  obtain ⟨⟨-, stop, -, le⟩, -, -⟩ := inOrder_cons.mp fillOrder
  have ahead := distance_add_distance hF stop hW le
  have further := distance_chain hD hF stop (by omega)
  refine ⟨h.sizes, ⟨hD, stop, hW, hK⟩, ?_, fillOrder.absorb hF hW,
    h.drain.mono (c := e.extent.stop) (by omega), poison, h.marks⟩
  show distance x.A x.K x.D + distance x.A x.D e.extent.stop + distance x.A e.extent.stop x.W ≤ x.C
  omega

/-- An extent that begins at or ahead of the end of every other joins the tail. -/
theorem InOrder.concat {A a b : Nat} {l : List Extent} {e : Extent} (h : InOrder A a b l) (he : e.Within A a b)
    (before : ∀ f ∈ l, f.Before A a e) : InOrder A a b (l ++ [e]) := by
  refine ⟨fun f hf => ?_, List.pairwise_append.mpr ⟨h.apart, List.pairwise_singleton _ _, fun f hf g hg => ?_⟩⟩
  · rcases List.mem_append.mp hf with hf | hf
    · exact h.within f hf
    · exact List.mem_singleton.mp hf ▸ he
  · exact List.mem_singleton.mp hg ▸ before f hf

/-- The poison list as an offer leaves it, where it takes the extent (R112). -/
def PoisonOffer.taken : PoisonOffer → Option (List Extent)
  | .merged list | .added list => some list
  | .refused => none

/-- What the poison list holds once it took the extent that F moves over lies within [K, F) again (R112). -/
theorem InOrder.offer {A K F v : Nat} {list l : List Extent} (h : InOrder A K F list) (hF : F < A) (hv : v < A)
    (ahead : distance A K F < distance A K v) (taken : (offerPoison F v list).taken = some l) : InOrder A K v l := by
  have within : Extent.Within A K v ⟨F, v⟩ := ⟨hF, hv, ahead, le_rfl⟩
  have grown := h.mono ahead.le
  have added : InOrder A K v (list ++ [⟨F, v⟩]) := grown.concat within fun f hf => (h.within f hf).2.2.2
  unfold offerPoison at taken
  cases last? : list.getLast? with
  | none =>
    rw [last?] at taken
    cases taken
    rw [List.getLast?_eq_none_iff.mp last?] at added
    exact added
  | some last =>
    simp only [last?] at taken
    split at taken
    · rename_i touches
      cases taken
      obtain ⟨front, rfl⟩ := List.getLast?_eq_some_iff.mp last?
      obtain ⟨l1, -, l3, -⟩ := h.within last (by simp)
      rw [List.dropLast_concat]
      refine (grown.sublist (List.sublist_append_left _ _)).concat ⟨l1, hv, ?_, le_rfl⟩ fun f hf => ?_
      · rw [touches] at l3
        exact l3.trans ahead
      · exact (List.pairwise_append.mp h.apart).2.2 f hf last (by simp)
    · split at taken
      · cases taken
        exact added
      · cases taken

/-- An absorption of the fill side keeps the stream in order (R62, R63, R112). -/
theorem Ring.StreamOrdered.absorbFill (h : x.StreamOrdered) {l : List ScoreEntry} (fill : x.fill = l) :
    Ring.StreamOrdered { x with
      fill := (absorbFill x.F x.poison l).fill
      F := (absorbFill x.F x.poison l).F
      poison := (absorbFill x.F x.poison l).poison } := by
  induction l generalizing x with
  | nil => exact h.of_same { fill := fill.symm } h.marks
  | cons e rest ih =>
    have stopped : Ring.StreamOrdered { x with fill := e :: rest } := h.of_same { fill := fill.symm } h.marks
    obtain ⟨hC, hA, hD, hF, hW, hK, order⟩ := h.numbers
    have fillOrder := h.fill
    rw [fill, List.map_cons] at fillOrder
    obtain ⟨⟨-, stop, nonempty, le⟩, -, -⟩ := inOrder_cons.mp fillOrder
    have reach := distance_chain hK hD hF (by omega)
    have further := distance_chain hK hF stop (by omega)
    have offer : ∀ {list}, (offerPoison x.F e.extent.stop x.poison).taken = some list →
        InOrder x.A x.K e.extent.stop list := h.poison.offer hF stop (by omega)
    unfold Machine.absorbFill
    by_cases start : e.extent.start = x.F
    · have moved : ∀ {list}, InOrder x.A x.K e.extent.stop list → _ := fun hl => ih (h.absorbOne fill hl) rfl
      rw [start] at nonempty
      simp only [start, if_true]
      cases e.state with
      | inFlight => exact stopped
      | landed => exact moved (h.poison.mono (by omega))
      | void =>
        cases offered : offerPoison x.F e.extent.stop x.poison with
        | merged list => exact moved (offer (by rw [offered]; rfl))
        | added list => exact moved (offer (by rw [offered]; rfl))
        | refused => exact stopped
    · simp only [start, if_false]
      exact stopped

/-- An absorption of the drain side keeps the stream in order (R86). -/
theorem Ring.StreamOrdered.absorbDrain (h : x.StreamOrdered) {l : List ScoreEntry} (drain : x.drain = l) :
    Ring.StreamOrdered { x with drain := (absorbDrain x.D l).1, D := (absorbDrain x.D l).2 } := by
  induction l generalizing x with
  | nil => exact h.of_same { drain := drain.symm } h.marks
  | cons e rest ih =>
    unfold Machine.absorbDrain
    by_cases lands : e.extent.start = x.D ∧ e.state = .landed
    · rw [if_pos lands]
      obtain ⟨hC, hA, hD, hF, hW, hK, order⟩ := h.numbers
      have drainOrder := h.drain
      rw [drain, List.map_cons] at drainOrder
      obtain ⟨⟨-, stop, -, le⟩, -, -⟩ := inOrder_cons.mp drainOrder
      have ahead := distance_add_distance hD stop hF le
      have further := distance_chain hK hD stop (by omega)
      refine ih (x := { x with drain := rest, D := e.extent.stop })
        ⟨h.sizes, ⟨stop, hF, hW, hK⟩, ?_, h.fill, drainOrder.absorb hD hF, h.poison, h.marks⟩ rfl
      show distance x.A x.K e.extent.stop + distance x.A e.extent.stop x.F + distance x.A x.F x.W ≤ x.C
      omega
    · rw [if_neg lands]
      exact h.of_same { drain := drain.symm } h.marks

/-! ## Write admission -/

/-- What an admitted write's end and start are to the frontiers (R45). -/
structure Ring.AdmitsWrite (x : Ring) (e : Extent) : Prop where
  active : x.state = .active
  inRange : signedDistance x.A x.F e.stop ≤ x.C
  startAhead : ¬ IsBehind x.A x.F e.start
  stopAhead : ¬ IsBehind x.A x.F e.stop
  apart : ∀ f ∈ x.fill, ¬ e.Intersects x.A f.extent
  room : x.BeyondRoom e.stop → x.active.overrun = .overtake

/-- What each outcome of write admission's checks says of the ring (R45, R91). -/
def WriteOutcome.Says (x : Ring) (e : Extent) : WriteOutcome → Prop
  | .answer _ => True
  | .hold => x.state = .active
  | .admitted => x.AdmitsWrite e

theorem judgeWrite_says (x : Ring) (master : MasterNo) (e : Extent) : (judgeWrite x master e).Says x e := by
  unfold judgeWrite
  refine iteInduction (fun _ => trivial) fun active => ?_
  refine iteInduction (fun _ => trivial) fun _ => ?_
  refine iteInduction (fun _ => trivial) fun inRange => ?_
  refine iteInduction (fun _ => trivial) fun clear => ?_
  refine iteInduction (fun _ => not_not.mp active) fun block => ?_
  refine iteInduction (fun _ => trivial) fun discard => ?_
  refine iteInduction (fun _ => trivial) fun _ => ?_
  obtain ⟨startAhead, stopAhead, apart⟩ := not_or.mp clear |>.imp_right not_or.mp
  refine ⟨not_not.mp active, Int.not_lt.mp inRange, startAhead, stopAhead,
    fun f hf meets => apart (List.any_eq_true.mpr ⟨f, hf, decide_eq_true meets⟩), fun beyond => ?_⟩
  cases policy : x.active.overrun with
  | block => exact absurd ⟨beyond, policy⟩ block
  | discard => exact absurd ⟨beyond, policy⟩ discard
  | overtake => rfl

/-- The end of a write that is admitted lies within C ahead of F. -/
theorem Ring.AdmitsWrite.stop_le {e : Extent} (h : x.AdmitsWrite e) : distance x.A x.F e.stop ≤ x.C := by
  have inRange := h.inRange
  have stopAhead := h.stopAhead
  have below : distance x.A x.F e.stop < x.A := distance_lt x.structural.apertureSize_pos _ _
  unfold IsBehind at stopAhead
  rcases signedDistance_cases x.A x.F e.stop with ⟨_, _⟩ | ⟨_, _⟩ <;> omega

/-- The write reach after an admission is the further of the two, seen from F (R44). -/
theorem Ring.reachAfter_spec {e : Nat} (hF : x.F < x.A) (hW : x.W < x.A) (he : e < x.A) (hA : 4 * x.C ≤ x.A)
    (w : distance x.A x.F x.W ≤ x.C) (s : distance x.A x.F e ≤ x.C) :
    x.reachAfter e < x.A ∧ distance x.A x.F (x.reachAfter e) = max (distance x.A x.F x.W) (distance x.A x.F e) := by
  have order := signedDistance_eq_sub hF hW he (by omega) (by omega)
  unfold Ring.reachAfter IsBeyond
  split <;> omega

/-- The keep floor that an admission asks for lies C bytes behind the reach, and beyond K when the reach lies more than
C beyond K (R44). -/
theorem Ring.floorAfter_spec {e : Nat} (hK : x.K < x.A) (hr : x.reachAfter e < x.A) (hA : 4 * x.C ≤ x.A) (hC : 0 < x.C)
    (le : distance x.A x.K (x.reachAfter e) ≤ 2 * x.C) :
    x.floorAfter e < x.A ∧ distance x.A (x.floorAfter e) (x.reachAfter e) = x.C
      ∧ (IsBeyond x.A x.K (x.floorAfter e) ↔ x.C < distance x.A x.K (x.reachAfter e)) := by
  have hf : x.floorAfter e < x.A := positionBefore_lt (by omega) _ _
  have back : distance x.A (x.floorAfter e) (x.reachAfter e) = x.C := distance_positionBefore hr (by omega)
  have := distance_spec hK hf
  have := distance_spec hf hr
  have := distance_spec hK hr
  refine ⟨hf, back, ?_⟩
  unfold IsBeyond
  rcases signedDistance_cases x.A x.K (x.floorAfter e) with ⟨_, _⟩ | ⟨_, _⟩ <;> omega

theorem Ring.C_pos (x : Ring) : 0 < x.C := x.structural.capacity_pos

/-- The room end lies C ahead of D; an end within 2C ahead of D lies beyond it when it is more than C ahead (R15). -/
theorem Ring.beyondRoom_iff {e : Nat} (hD : x.D < x.A) (he : e < x.A) (hA : 4 * x.C ≤ x.A)
    (le : distance x.A x.D e ≤ 2 * x.C) : x.BeyondRoom e ↔ x.C < distance x.A x.D e := by
  have hC := x.C_pos
  have hroom : x.roomEnd < x.A := positionAfter_lt (show 0 < x.A by omega) _ _
  have room : distance x.A x.D x.roomEnd = x.C := distance_positionAfter hD (show x.C < x.A by omega)
  have := signedDistance_eq_sub hD hroom he (by omega) (by omega)
  unfold Ring.BeyondRoom IsBeyond
  change 0 < signedDistance x.A x.roomEnd e ↔ _
  omega

/-- R44: a write that is admitted with no overtake due keeps the frontiers in order. -/
theorem Ring.placeWrite_frontiers {u : TxnNo} {e : Extent} (order : x.FrontiersOrdered) (hA : 4 * x.C ≤ x.A)
    (hD : x.D < x.A) (hF : x.F < x.A) (hW : x.W < x.A) (hK : x.K < x.A) (he : e.stop < x.A) (admits : x.AdmitsWrite e)
    (room : ¬ x.BeyondRoom e.stop) : (x.placeWrite u e).FrontiersOrdered := by
  unfold Ring.FrontiersOrdered at order
  have hC := x.C_pos
  have stop := admits.stop_le
  have fromD := distance_chain hD hF he (by omega)
  rw [Ring.beyondRoom_iff hD he hA (by omega)] at room
  obtain ⟨hr, reach⟩ := Ring.reachAfter_spec hF hW he hA (by omega) stop
  have fromD' := distance_chain hD hF hr (by omega)
  have fromK := distance_chain hK hD hr (by omega)
  obtain ⟨hf, back, beyond⟩ := Ring.floorAfter_spec hK hr hA hC (by omega)
  have floorD := distance_add_distance_of_end hf hD hr (by omega)
  rw [Ring.placeWrite_eq]
  by_cases moved : IsBeyond x.A x.K (x.floorAfter e.stop)
  · rw [if_pos moved, if_pos moved]
    rw [beyond] at moved
    show distance x.A (x.floorAfter e.stop) x.D + distance x.A x.D x.F + distance x.A x.F (x.reachAfter e.stop) ≤ x.C
    omega
  · rw [if_neg moved, if_neg moved]
    rw [beyond] at moved
    show distance x.A x.K x.D + distance x.A x.D x.F + distance x.A x.F (x.reachAfter e.stop) ≤ x.C
    omega

/-- A request's extent that starts less than half an aperture ahead of a frontier ends ahead of its start. -/
theorem Ring.Fits.start_lt_stop {e : Extent} (fits : x.Fits e) (hA : 1024 ≤ x.A) {a : Nat} (ha : a < x.A)
    (ahead : ¬ IsBehind x.A a e.start) : distance x.A a e.start < distance x.A a e.stop := by
  obtain ⟨start, stop, pos, le⟩ := fits
  have below : distance x.A a e.start < x.A := distance_lt (by omega) _ _
  unfold Extent.length at pos le
  unfold Config.longestRequest at le
  unfold IsBehind at ahead
  have half : 2 * distance x.A a e.start < x.A := by
    rcases signedDistance_cases x.A a e.start with ⟨_, _⟩ | ⟨_, _⟩ <;> omega
  have := distance_chain ha start stop (by omega)
  omega

/-- A placed write changes the fill scoreboard, W, K and the poison list alone (R54). -/
theorem Ring.placeWrite_same (x : Ring) (u : TxnNo) (e : Extent) :
    (x.placeWrite u e).state = x.state ∧ (x.placeWrite u e).structural = x.structural
      ∧ (x.placeWrite u e).active = x.active ∧ (x.placeWrite u e).side = x.side ∧ (x.placeWrite u e).D = x.D
      ∧ (x.placeWrite u e).F = x.F ∧ (x.placeWrite u e).drain = x.drain := by
  rw [Ring.placeWrite_eq]
  exact ⟨rfl, rfl, rfl, rfl, rfl, rfl, rfl⟩

/-- An admitted write's entry takes its sorted place within [F, W) (R43, R54). -/
theorem Ring.StreamOrdered.fill_placeWrite (h : x.StreamOrdered) {u : TxnNo} {e : Extent} (fits : x.Fits e)
    (admits : x.AdmitsWrite e) :
    InOrder x.A x.F (x.reachAfter e.stop)
      ((insertEntry x.A x.F { extent := e, state := .inFlight, transactions := [u] } x.fill).map ScoreEntry.extent) := by
  obtain ⟨hC, hA, hD, hF, hW, hK, order⟩ := h.numbers
  have stop := admits.stop_le
  obtain ⟨hr, reach⟩ := Ring.reachAfter_spec hF hW fits.2.1 hA (by omega) stop
  exact (h.fill.mono (by omega)).insert hF (by omega)
    ⟨fits.1, fits.2.1, fits.start_lt_stop (by omega) hF admits.startAhead, by dsimp only; omega⟩ admits.apart

/-- A write that is admitted with no overtake due keeps the stream in order (R43, R44, R54, R55). -/
theorem Ring.StreamOrdered.placeWrite (h : x.StreamOrdered) {u : TxnNo} {e : Extent} (fits : x.Fits e)
    (admits : x.AdmitsWrite e) (room : ¬ x.BeyondRoom e.stop) : (x.placeWrite u e).StreamOrdered := by
  obtain ⟨hC, hA, hD, hF, hW, hK, order⟩ := h.numbers
  have frontiers := Ring.placeWrite_frontiers (u := u) h.frontiers hA hD hF hW hK fits.2.1 admits room
  have stop := admits.stop_le
  have fromD := distance_chain hD hF fits.2.1 (by omega)
  rw [Ring.beyondRoom_iff hD fits.2.1 hA (by omega)] at room
  obtain ⟨hr, reach⟩ := Ring.reachAfter_spec hF hW fits.2.1 hA (by omega) stop
  have fromK := distance_chain hK hD hF (by omega)
  have fromK' := distance_chain hK hF hr (by omega)
  obtain ⟨hf, back, beyond⟩ := Ring.floorAfter_spec hK hr hA x.C_pos (by omega)
  have fillOrder := h.fill_placeWrite (u := u) fits admits
  rw [Ring.placeWrite_eq] at frontiers ⊢
  by_cases moved : IsBeyond x.A x.K (x.floorAfter e.stop)
  · rw [if_pos moved, if_pos moved] at frontiers ⊢
    rw [beyond] at moved
    have floorK := distance_add_distance_of_end hK hf hr (by omega)
    have poisonOrder := h.poison.cut hK hF hf (by omega) (by omega)
    exact ⟨h.sizes, ⟨hD, hF, hr, hf⟩, frontiers, fillOrder, h.drain, poisonOrder, h.marks⟩
  · rw [if_neg moved, if_neg moved] at frontiers ⊢
    exact ⟨h.sizes, ⟨hD, hF, hr, hK⟩, frontiers, fillOrder, h.drain, h.poison, h.marks⟩

/-- A write that overtakes: with D at D1 = e - C and the drain scoreboard cut back to it, the stream is in order (R56,
R57). -/
theorem Ring.StreamOrdered.overtaken (h : x.StreamOrdered) {u : TxnNo} {e : Extent} (fits : x.Fits e)
    (admits : x.AdmitsWrite e) (room : x.BeyondRoom e.stop) :
    Ring.StreamOrdered { x.placeWrite u e with
      D := positionBefore x.A e.stop x.C
      drain := cutDrain x.A (positionBefore x.A e.stop x.C) x.drain } := by
  obtain ⟨hC, hA, hD, hF, hW, hK, order⟩ := h.numbers
  have stop := admits.stop_le
  have fromD := distance_chain hD hF fits.2.1 (by omega)
  rw [Ring.beyondRoom_iff hD fits.2.1 hA (by omega)] at room
  obtain ⟨hr, reach⟩ := Ring.reachAfter_spec hF hW fits.2.1 hA (by omega) stop
  have fillOrder := h.fill_placeWrite (u := u) fits admits
  have reached : x.reachAfter e.stop = e.stop := eq_of_distance_eq hF hr fits.2.1 (by omega)
  have fromK := distance_chain hK hD hF (by omega)
  have fromK' := distance_chain hK hF fits.2.1 (by omega)
  rw [reached] at fillOrder
  have floor := Ring.floorAfter_spec (e := e.stop) hK hr hA x.C_pos (by rw [reached]; omega)
  unfold Ring.floorAfter at floor
  rw [reached] at floor
  obtain ⟨hf, back, beyond⟩ := floor
  have floorF := distance_add_distance_of_end hf hF fits.2.1 (by omega)
  have floorD := distance_add_distance_of_end hD hf fits.2.1 (by omega)
  have floorK := distance_add_distance_of_end hK hf fits.2.1 (by omega)
  have self := distance_self hf
  have drainOrder := h.drain.cut hD hF hf (by omega) (by omega)
  have poisonOrder := h.poison.cut hK hF hf (by omega) (by omega)
  rw [Ring.placeWrite_eq]
  unfold Ring.floorAfter
  rw [reached, if_pos (beyond.mpr (by omega)), if_pos (beyond.mpr (by omega))]
  refine ⟨h.sizes, ⟨hf, hF, fits.2.1, hf⟩, ?_, fillOrder, ?_, ?_, h.marks⟩
  · show distance x.A (positionBefore x.A e.stop x.C) (positionBefore x.A e.stop x.C)
      + distance x.A (positionBefore x.A e.stop x.C) x.F + distance x.A x.F e.stop ≤ x.C
    omega
  · rw [cutDrain_extents]
    exact drainOrder
  · rw [retirePoison_eq]
    exact poisonOrder

/-! ## Read admission -/

/-- What the consume part of a read that passes the checks is to the drain side (R70, R73). -/
structure Ring.AdmitsRead (x : Ring) (cls : RequestClass) (e : Extent) : Prop where
  state : x.state = .active ∨ x.state = .draining ∨ x.state = .paused
  inRange : signedDistance x.A x.D e.stop ≤ x.C
  filled : ¬ x.BeyondFill e.stop
  apart : ∀ c, consumePart x cls e = some c → ∀ f ∈ x.drain, ¬ c.Intersects x.A f.extent

/-- What each outcome of read admission's checks says of the ring (R73, R91). -/
def ReadOutcome.Says (x : Ring) (cls : RequestClass) (e : Extent) : ReadOutcome → Prop
  | .answer _ => True
  | .hold => x.state = .active
  | .poisoned | .admitted => x.AdmitsRead cls e

theorem judgeRead_says (x : Ring) (cls : RequestClass) (e : Extent) : (judgeRead x cls e).Says x cls e := by
  unfold judgeRead
  refine iteInduction (fun _ => trivial) fun halted => ?_
  refine iteInduction (fun _ => trivial) fun stopped => ?_
  refine iteInduction (fun _ => trivial) fun _ => ?_
  refine iteInduction (fun _ => trivial) fun _ => ?_
  refine iteInduction (fun _ => trivial) fun inRange => ?_
  refine iteInduction (fun _ => iteInduction (fun hold => hold.2.2) fun _ => trivial) fun filled => ?_
  refine iteInduction (fun _ => trivial) fun apart => ?_
  refine iteInduction (fun _ => trivial) fun _ => ?_
  have admits : x.AdmitsRead cls e := by
    refine ⟨?_, Int.not_lt.mp inRange, filled, fun c hc f hf meets => apart ?_⟩
    · rw [not_or] at stopped
      cases hs : x.state with
      | active => exact Or.inl rfl
      | draining => exact Or.inr (Or.inl rfl)
      | paused => exact Or.inr (Or.inr rfl)
      | halted => exact absurd hs halted
      | clearing => exact absurd hs stopped.1
      | off => exact absurd hs stopped.2
    · rw [hc]
      exact List.any_eq_true.mpr ⟨f, hf, decide_eq_true meets⟩
  exact iteInduction (fun _ => admits) fun _ => admits

/-- The consume part of a read that passes the checks lies within [D, F) (R70, R71). -/
theorem Ring.StreamOrdered.consumePart_within (h : x.StreamOrdered) {cls : RequestClass} {e c : Extent}
    (fits : x.Fits e) (admits : x.AdmitsRead cls e) (part : consumePart x cls e = some c) : c.Within x.A x.D x.F := by
  obtain ⟨hC, hA, hD, hF, hW, hK, order⟩ := h.numbers
  obtain ⟨-, stop, beyond, start⟩ := consumePart_some part
  have inRange := admits.inRange
  have filled := admits.filled
  have he := fits.2.1
  rw [← stop] at inRange filled he
  unfold IsBeyond at beyond
  unfold Ring.BeyondFill IsBeyond at filled
  change ¬ 0 < signedDistance x.A x.F c.stop at filled
  have near : distance x.A x.D c.stop ≤ x.C := by
    have : distance x.A x.D c.stop < x.A := distance_lt (by omega) _ _
    rcases signedDistance_cases x.A x.D c.stop with ⟨_, _⟩ | ⟨_, _⟩ <;> omega
  have nonempty : 0 < distance x.A x.D c.stop := by
    rcases signedDistance_cases x.A x.D c.stop with ⟨_, _⟩ | ⟨_, _⟩ <;> omega
  have fromF := signedDistance_eq_sub hD hF he (by omega) (by omega)
  have bound : distance x.A x.D c.stop ≤ distance x.A x.D x.F := by omega
  rcases start with ⟨same, ahead⟩ | ⟨same, -⟩
  · have := fits.start_lt_stop (by omega) hD (Int.not_lt.mpr ahead)
    rw [← same, ← stop] at this
    exact ⟨same ▸ fits.1, he, this, bound⟩
  · refine ⟨same ▸ hD, he, ?_, bound⟩
    rw [same, distance_self hD]
    exact nonempty

/-- A read that passes the checks has its consume part placed in the drain scoreboard in order (R71, R82). -/
theorem Ring.StreamOrdered.placeRead (h : x.StreamOrdered) {u : TxnNo} {cls : RequestClass} {e : Extent}
    (fits : x.Fits e)
    (admits : x.AdmitsRead cls e) (state : EntryState) :
    (x.placeRead u (consumePart x cls e) state).StreamOrdered := by
  obtain ⟨hC, hA, hD, hF, hW, hK, order⟩ := h.numbers
  cases part : consumePart x cls e with
  | none => exact h
  | some c =>
    exact h.setDrain (h.drain.insert (e := { extent := c, state := state, transactions := [u] }) hD (by omega)
      (h.consumePart_within fits admits part) (admits.apart c part))

/-! ## ENABLE -/

/-- ENABLE leaves an empty stream that starts at one position, its level 0 below the high mark (R29). -/
theorem Ring.enabled_streamSound (sizes : Config.longestRequest ≤ x.C ∧ 4 * x.C ≤ x.A)
    (marks : x.active.lowMark.toNat < x.active.highMark.toNat) : x.enabled.StreamSound := by
  have hA : 0 < x.A := x.structural.apertureSize_pos
  have hp : x.structural.startOffset.toNat % x.A < x.A := Nat.mod_lt _ hA
  have self := distance_self hp
  refine ⟨sizes, ⟨hp, hp, hp, hp⟩, ?_, inOrder_nil, inOrder_nil, inOrder_nil, marks, ?_⟩
  · show distance x.A _ _ + distance x.A _ _ + distance x.A _ _ ≤ x.C
    have := x.C_pos
    simp only [Ring.enabled, self]
    omega
  · show distance x.A _ _ < x.active.highMark.toNat
    simp only [Ring.enabled, self]
    omega

end

end Sys2Proof.Machine
end

section
/-! The state in the course of an event: `State.Sound` but for what the event has still to put right, and the changes that
keep it: a request that moves from one place to another, a ring that changes. -/

namespace Sys2Proof.Machine

/-! ## Soundness in the course of an event -/

/-- What an event in progress has still to put right. -/
structure Lapse where
  /-- The request that was taken out of its place and has no other yet. -/
  txn : Option TxnNo := none
  /-- The CLEARING ring whose clear-end test is still to come. -/
  clear : Option RingNo := none
  /-- The ring whose level is still to be evaluated. -/
  level : Option RingNo := none
  /-- The ring that left ACTIVE and whose hold list is still to be answered. -/
  held : Option RingNo := none
  /-- The rings that a part reset has still to clear. -/
  reset : List RingNo := []

/-- What `State.EntriesPlaced` says of a request by itself. -/
structure State.RequestRight (s : State) (x : Txn) : Prop where
  status : x.status ≠ none ↔ x.stage = .ready
  outstanding : x.stage = .queued ∨ x.stage = .outstanding → 0 < x.outstanding
  waits : x.stage = .accepted ∨ x.stage = .held →
    (x.parts.length = 1 ∨ x.parts.length = 2)
      ∧ ∃ r ∈ x.ring, ∃ e ∈ x.range, x.cleared = false → (s.ring r).state ≠ .off ∧ (s.ring r).Fits e

/-- The places that a request's stage says, none while it is in passage. -/
def State.placesDue (s : State) (o : Option TxnNo) (t : TxnNo) : Nat × Nat × Nat × Nat :=
  if o = some t then (0, 0, 0, 0) else ((s.txn t).map Txn.places).getD (0, 0, 0, 0)

/-- `State.Sound` but for the lapses of an event in progress. -/
structure State.SoundUpTo (s : State) (l : Lapse) : Prop where
  places : ∀ t, s.placesOf t = s.placesDue l.txn t
  requests : ∀ t, l.txn ≠ some t → ∀ x ∈ s.txn t, s.RequestRight x
  holds : ∀ h ∈ s.pool.entries, s.ringOf h.transaction = some h.ring
    ∧ ((s.ring h.ring).state = .active ∨ l.held = some h.ring)
  passing : ∀ o ∈ s.mem.queue, o.cls = .passThrough → ∃ x ∈ s.txn o.transaction, x.ring = none ∧ x.outstanding = 1
  ids : (s.mem.outstanding.map Outstanding.id).Nodup
  clearing : ∀ r, (s.ring r).state = .clearing → l.clear = some r ∨ s.ringBusy r = true
  resetting : s.part = .resetting → ∀ r, r ∈ l.reset ∨ (s.ring r).state = .off ∨ (s.ring r).state = .clearing
  streams : ∀ r, (s.ring r).state ≠ .off → (s.ring r).StreamOrdered ∧ (l.level = some r ∨ (s.ring r).SideAgrees)

theorem State.soundUpTo_of_sound {s : State} (h : s.Sound) : s.SoundUpTo {} where
  places t := h.entries.places t
  requests t _ x hx := ⟨(h.entries.stages t x hx).1, (h.entries.stages t x hx).2, h.entries.requests t x hx⟩
  holds g hg := ⟨h.entries.holds g hg, Or.inl (h.held g hg)⟩
  passing := h.entries.passing
  ids := h.entries.ids
  clearing r hr := Or.inr (h.clearing r hr)
  resetting hp r := Or.inr (h.resetting hp r)
  streams r hr := (Ring.streamSound_iff.mp (h.streams r hr)).imp_right Or.inr

theorem State.SoundUpTo.sound {s : State} (h : s.SoundUpTo {}) : s.Sound where
  entries :=
    { places := h.places
      stages := fun t x hx =>
        have right := h.requests t (by simp) x hx
        ⟨right.status, right.outstanding⟩
      requests := fun t x hx => (h.requests t (by simp) x hx).waits
      holds := fun g hg => (h.holds g hg).1
      passing := h.passing
      ids := h.ids }
  held g hg := (h.holds g hg).2.resolve_right (by simp)
  clearing r hr := (h.clearing r hr).resolve_left (by simp)
  resetting hp r := (h.resetting hp r).resolve_left (by simp)
  streams r hr := Ring.streamSound_iff.mpr ((h.streams r hr).imp_right fun side => side.resolve_left (by simp))

/-! ## Places -/

section
variable {s s' : State} {l : Lapse}

/-- The operations of a request that are queued or live. -/
def State.opsOf (s : State) (t : TxnNo) : Nat :=
  (s.mem.queue.countP fun o => o.transaction = t)
    + s.mem.outstanding.countP fun o => o.condition = .live ∧ o.transaction = t

theorem State.placesOf_eq (s : State) (t : TxnNo) :
    s.placesOf t = (s.awaiting.count t, s.pool.entries.countP (fun h => h.transaction = t), s.opsOf t,
      s.sys.readyOrder.count t) := rfl

theorem State.placesOf_iff {t : TxnNo} {a b c d : Nat} : s.placesOf t = (a, b, c, d) ↔
    s.awaiting.count t = a ∧ s.pool.entries.countP (fun h => h.transaction = t) = b ∧ s.opsOf t = c
      ∧ s.sys.readyOrder.count t = d := by
  rw [State.placesOf_eq]
  simp only [Prod.mk.injEq]

/-- A ring is busy when some request of it has operations queued or live (R36, R37). -/
theorem State.ringBusy_iff_opsOf (s : State) (r : RingNo) :
    s.ringBusy r = true ↔ ∃ t, 0 < s.opsOf t ∧ s.ringOf t = some r := by
  rw [State.ringBusy_iff]
  constructor
  · rintro (⟨o, ho, hr⟩ | ⟨o, ho, live, hr⟩)
    · exact ⟨o.transaction, Nat.add_pos_left (List.countP_pos_iff.mpr ⟨o, ho, by simp⟩) _, hr⟩
    · exact ⟨o.transaction, Nat.add_pos_right _ (List.countP_pos_iff.mpr ⟨o, ho, by simp [live]⟩), hr⟩
  · rintro ⟨t, pos, hr⟩
    rcases Nat.add_pos_iff_pos_or_pos.mp pos with pos | pos
    · obtain ⟨o, ho, same⟩ := List.countP_pos_iff.mp pos
      exact Or.inl ⟨o, ho, by rw [of_decide_eq_true same, hr]⟩
    · obtain ⟨o, ho, same⟩ := List.countP_pos_iff.mp pos
      obtain ⟨live, same⟩ := of_decide_eq_true same
      exact Or.inr ⟨o, ho, live, by rw [same, hr]⟩

theorem State.not_held_of_places {t : TxnNo} (h : (s.placesOf t).2.1 = 0) :
    ∀ g ∈ s.pool.entries, g.transaction ≠ t := by
  intro g hg same
  have := List.countP_eq_zero.mp h g hg
  simp [same] at this

theorem State.not_queued_of_places {t : TxnNo} (h : (s.placesOf t).2.2.1 = 0) :
    ∀ o ∈ s.mem.queue, o.transaction ≠ t := by
  intro o ho same
  have := List.countP_eq_zero.mp (Nat.eq_zero_of_add_eq_zero_right h) o ho
  simp [same] at this

/-! ## Changes -/

/-- A state that differs in nothing that soundness speaks of is as sound. -/
theorem State.SoundUpTo.of_eq (h : s.SoundUpTo l) (ring : ∀ r, s'.ring r = s.ring r := by simp)
    (txn : ∀ t, s'.txn t = s.txn t := by simp) (part : s'.part = s.part := by simp)
    (awaiting : s'.awaiting = s.awaiting := by simp) (entries : s'.pool.entries = s.pool.entries := by simp)
    (ready : s'.sys.readyOrder = s.sys.readyOrder := by simp) (queue : s'.mem.queue = s.mem.queue := by simp)
    (outstanding : s'.mem.outstanding = s.mem.outstanding := by simp) : s'.SoundUpTo l := by
  have ringOf : ∀ t, s'.ringOf t = s.ringOf t := fun t => by rw [State.ringOf, txn, State.ringOf]
  have right : ∀ x, s.RequestRight x → s'.RequestRight x := fun x hx =>
    ⟨hx.status, hx.outstanding, fun w => by simpa only [ring] using hx.waits w⟩
  refine ⟨fun t => ?_, fun t ht x hx => right x ?_, ?_, ?_, ?_, fun r hr => ?_, ?_, ?_⟩
  · simpa only [State.placesOf, State.placesDue, txn, awaiting, entries, ready, queue, outstanding] using h.places t
  · exact h.requests t ht x (txn t ▸ hx)
  · simpa only [entries, ringOf, ring] using h.holds
  · simpa only [queue, txn] using h.passing
  · simpa only [outstanding] using h.ids
  · rw [ring] at hr
    refine (h.clearing r hr).imp_right fun busy => ?_
    simpa only [State.ringBusy, queue, outstanding, ringOf] using busy
  · simpa only [part, ring] using h.resetting
  · simpa only [ring] using h.streams

/-- A state whose fields that soundness speaks of are the same by definition is as sound. -/
theorem State.SoundUpTo.of_fields (h : s.SoundUpTo l) (rings : s'.rings = s.rings := by rfl)
    (table : s'.sys.table = s.sys.table := by rfl) (part : s'.part = s.part := by rfl)
    (awaiting : s'.awaiting = s.awaiting := by rfl) (entries : s'.pool.entries = s.pool.entries := by rfl)
    (ready : s'.sys.readyOrder = s.sys.readyOrder := by rfl) (queue : s'.mem.queue = s.mem.queue := by rfl)
    (outstanding : s'.mem.outstanding = s.mem.outstanding := by rfl) : s'.SoundUpTo l :=
  h.of_eq (State.ring_congr rings) (fun t => by rw [State.txn, table, State.txn]) part awaiting entries ready queue
    outstanding

/-- A request is where the next lapse wants it, and its operations are still counted for its ring. -/
structure State.Settles (s s' : State) (l l' : Lapse) (t : TxnNo) : Prop where
  places : s'.placesOf t = s'.placesDue l'.txn t
  right : l'.txn ≠ some t → ∀ x ∈ s'.txn t, s'.RequestRight x
  busy : ∀ r, s.ringOf t = some r → 0 < s.opsOf t → l'.clear = some r ∨ (0 < s'.opsOf t ∧ s'.ringOf t = some r)

/-- Requests move from place to place while the rings stay as they are: it is enough to look at the ones that move. -/
theorem State.SoundUpTo.move {l' : Lapse} (h : s.SoundUpTo l) (ring : ∀ r, s'.ring r = s.ring r)
    (part : s'.part = s.part) (clear : ∀ r, l.clear = some r → l'.clear = some r) (level : l'.level = l.level) (reset : l'.reset = l.reset)
    (entries : ∀ t, (s'.txn t = s.txn t ∧ s'.placesOf t = s.placesOf t ∧ (l'.txn = some t ↔ l.txn = some t))
      ∨ s.Settles s' l l' t)
    (holds : ∀ g ∈ s'.pool.entries, s'.ringOf g.transaction = some g.ring
      ∧ ((s'.ring g.ring).state = .active ∨ l'.held = some g.ring))
    (passing : ∀ o ∈ s'.mem.queue, o.cls = .passThrough →
      ∃ x ∈ s'.txn o.transaction, x.ring = none ∧ x.outstanding = 1)
    (ids : (s'.mem.outstanding.map Outstanding.id).Nodup) : s'.SoundUpTo l' := by
  have right : ∀ x, s.RequestRight x → s'.RequestRight x := fun x hx =>
    ⟨hx.status, hx.outstanding, fun w => by simpa only [ring] using hx.waits w⟩
  refine ⟨fun t => ?_, fun t ht x hx => ?_, holds, passing, ids, fun r hr => ?_, ?_, ?_⟩
  · rcases entries t with ⟨txn, places, lapse⟩ | settles
    · rw [places, h.places, State.placesDue, State.placesDue, txn]
      simp only [lapse]
    · exact settles.places
  · rcases entries t with ⟨txn, -, lapse⟩ | settles
    · exact right x (h.requests t (fun e => ht (lapse.mpr e)) x (txn ▸ hx))
    · exact settles.right ht x hx
  · rw [ring] at hr
    rcases h.clearing r hr with lapse | busy
    · exact Or.inl (clear r lapse)
    obtain ⟨t, pos, hrt⟩ := (s.ringBusy_iff_opsOf r).mp busy
    rw [State.ringBusy_iff_opsOf]
    rcases entries t with ⟨txn, places, -⟩ | settles
    · have ops : s'.opsOf t = s.opsOf t := congrArg (fun p => p.2.2.1) places
      exact Or.inr ⟨t, ops ▸ pos, by rw [State.ringOf, txn]; exact hrt⟩
    · exact (settles.busy r hrt pos).imp_right fun ⟨p, q⟩ => ⟨t, p, q⟩
  · simpa only [part, ring, reset] using h.resetting
  · simpa only [ring, level] using h.streams

/-- One ring becomes another: requests that wait for it still fit it, a ring leaves ACTIVE only with its hold list still
to be answered, and begins a clear only with the clear-end test still to come. -/
structure Ring.Becomes (x y : Ring) (r : RingNo) (l : Lapse) : Prop where
  on : x.state ≠ .off → y.state ≠ .off ∧ y.structural = x.structural
  active : x.state = .active → y.state = .active ∨ l.held = some r
  clearing : y.state = .clearing → x.state = .clearing ∨ l.clear = some r
  cleared : x.state = .off ∨ x.state = .clearing → r ∈ l.reset ∨ y.state = .off ∨ y.state = .clearing
  streams : y.state ≠ .off → y.StreamOrdered ∧ (l.level = some r ∨ y.SideAgrees)

theorem State.SoundUpTo.setRing (h : s.SoundUpTo l) {r : RingNo} {y : Ring} (becomes : (s.ring r).Becomes y r l) :
    (s.setRing r y).SoundUpTo l := by
  have ring : ∀ q, (q = r ∧ (s.setRing r y).ring q = y) ∨ (q ≠ r ∧ (s.setRing r y).ring q = s.ring q) := by
    intro q
    by_cases same : q = r
    · exact Or.inl ⟨same, by rw [same, State.ring_setRing_self]⟩
    · exact Or.inr ⟨same, State.ring_setRing_ne s same y⟩
  refine ⟨h.places, fun t ht x hx => ⟨(h.requests t ht x hx).status, (h.requests t ht x hx).outstanding, fun w => ?_⟩,
    fun g hg => ⟨(h.holds g hg).1, ?_⟩, h.passing, h.ids, fun q hq => ?_, fun part q => ?_, fun q hq => ?_⟩
  · obtain ⟨parts, q, hq, e, he, fits⟩ := (h.requests t ht x hx).waits w
    refine ⟨parts, q, hq, e, he, fun fresh => ?_⟩
    obtain ⟨on, fits⟩ := fits fresh
    rcases ring q with ⟨rfl, same⟩ | ⟨-, same⟩
    · rw [same]
      obtain ⟨on', structural⟩ := becomes.on on
      refine ⟨on', ?_⟩
      unfold Ring.Fits Ring.A
      rw [structural]
      exact fits
    · rw [same]
      exact ⟨on, fits⟩
  · rcases ring g.ring with ⟨here, same⟩ | ⟨-, same⟩
    · rw [same]
      rcases (h.holds g hg).2 with active | lapse
      · exact (becomes.active (here ▸ active)).imp_right fun held => here ▸ held
      · exact Or.inr lapse
    · rw [same]
      exact (h.holds g hg).2
  · rcases ring q with ⟨rfl, same⟩ | ⟨-, same⟩
    · rw [same] at hq
      exact (becomes.clearing hq).elim (h.clearing q) Or.inl
    · rw [same] at hq
      exact h.clearing q hq
  · rcases ring q with ⟨rfl, same⟩ | ⟨-, same⟩
    · rw [same]
      exact (h.resetting part q).elim Or.inl becomes.cleared
    · rw [same]
      exact h.resetting part q
  · rcases ring q with ⟨rfl, same⟩ | ⟨-, same⟩
    · rw [same] at hq ⊢
      exact becomes.streams hq
    · rw [same] at hq ⊢
      exact h.streams q hq

/-- A ring that keeps its state and its structural fields. -/
theorem State.SoundUpTo.setRing_same (h : s.SoundUpTo l) {r : RingNo} {y : Ring} (state : y.state = (s.ring r).state)
    (structural : y.structural = (s.ring r).structural)
    (streams : (s.ring r).state ≠ .off → (s.ring r).StreamOrdered →
      y.StreamOrdered ∧ (l.level = some r ∨ (s.ring r).SideAgrees → l.level = some r ∨ y.SideAgrees)) :
    (s.setRing r y).SoundUpTo l :=
  h.setRing
    { on := fun on => ⟨state ▸ on, structural⟩
      active := fun active => Or.inl (state.trans active)
      clearing := fun clearing => Or.inl (state.symm.trans clearing)
      cleared := fun cleared => Or.inr (by rwa [state])
      streams := fun on => by
        rw [state] at on
        obtain ⟨order, side⟩ := h.streams r on
        exact (streams on order).imp_right fun keeps => keeps side }

/-- A ring that changes in nothing that its stream is made of. -/
theorem State.SoundUpTo.setRing_stream (h : s.SoundUpTo l) {r : RingNo} {y : Ring} (state : y.state = (s.ring r).state)
    (same : (s.ring r).SameStream y) (active : y.active = (s.ring r).active) (side : y.side = (s.ring r).side) :
    (s.setRing r y).SoundUpTo l :=
  h.setRing_same state same.structural fun _ order =>
    ⟨order.of_same same (active ▸ order.marks),
      Or.imp_right fun agrees => agrees.of_same same.structural same.D same.F active side⟩

/-! ## Lapses -/

/-- A lapse may be granted. -/
theorem State.SoundUpTo.grant (h : s.SoundUpTo l) {l' : Lapse} (txn : l'.txn = l.txn := by rfl)
    (clear : ∀ r, l.clear = some r → l'.clear = some r := by simp)
    (level : ∀ r, l.level = some r → l'.level = some r := by simp)
    (held : ∀ r, l.held = some r → l'.held = some r := by simp)
    (reset : ∀ r ∈ l.reset, r ∈ l'.reset := by simp) : s.SoundUpTo l' where
  places := txn ▸ h.places
  requests := txn ▸ h.requests
  holds g hg := ⟨(h.holds g hg).1, (h.holds g hg).2.imp_right (held _)⟩
  passing := h.passing
  ids := h.ids
  clearing r hr := (h.clearing r hr).imp_left (clear r)
  resetting part r := (h.resetting part r).imp_left (reset r)
  streams r hr := (h.streams r hr).imp_right (Or.imp_left (level r))

/-- The level of a ring that agrees with its side needs no evaluation. -/
theorem State.SoundUpTo.level_settled (h : s.SoundUpTo l) {r : RingNo} (level : l.level = some r)
    (agrees : (s.ring r).state ≠ .off → (s.ring r).SideAgrees) : s.SoundUpTo { l with level := none } :=
  { h with
    streams := fun q hq => by
      refine ⟨(h.streams q hq).1, Or.inr ?_⟩
      rcases (h.streams q hq).2 with lapse | side
      · obtain rfl : r = q := Option.some_injective _ (level.symm.trans lapse)
        exact agrees hq
      · exact side }

/-- A hold list that is empty needs no answer. -/
theorem State.SoundUpTo.held_settled (h : s.SoundUpTo l) {r : RingNo} (held : l.held = some r)
    (empty : ∀ g ∈ s.pool.entries, g.ring ≠ r) : s.SoundUpTo { l with held := none } :=
  { h with
    holds := fun g hg => by
      refine ⟨(h.holds g hg).1, Or.inl ((h.holds g hg).2.resolve_right fun lapse => empty g hg ?_)⟩
      exact Option.some_injective _ (lapse.symm.trans held) }

/-- A ring that is not CLEARING needs no clear-end test. -/
theorem State.SoundUpTo.clear_settled (h : s.SoundUpTo l) {r : RingNo} (clear : l.clear = some r)
    (ends : (s.ring r).state = .clearing → s.ringBusy r = true) : s.SoundUpTo { l with clear := none } :=
  { h with
    clearing := fun q hq => by
      refine Or.inr ((h.clearing q hq).elim (fun lapse => ?_) id)
      obtain rfl : r = q := Option.some_injective _ (clear.symm.trans lapse)
      exact ends hq }

/-! ## A request that is in passage -/

section
variable {u : TxnNo}

theorem State.SoundUpTo.nowhere (h : s.SoundUpTo l) (passage : l.txn = some u) : s.placesOf u = (0, 0, 0, 0) := by
  rw [h.places, State.placesDue, if_pos passage]

theorem State.SoundUpTo.not_held (h : s.SoundUpTo l) (passage : l.txn = some u) :
    ∀ g ∈ s.pool.entries, g.transaction ≠ u := s.not_held_of_places (by rw [h.nowhere passage])

theorem State.SoundUpTo.not_queued (h : s.SoundUpTo l) (passage : l.txn = some u) :
    ∀ o ∈ s.mem.queue, o.transaction ≠ u := s.not_queued_of_places (by rw [h.nowhere passage])

theorem State.SoundUpTo.no_ops (h : s.SoundUpTo l) (passage : l.txn = some u) : s.opsOf u = 0 :=
  congrArg (fun p => p.2.2.1) (h.nowhere passage)

/-- A request in passage arrives in its next place: the rings, the pool's other entries and the other requests are as
they were. -/
theorem State.SoundUpTo.arrive (h : s.SoundUpTo l) (passage : l.txn = some u) (ring : ∀ r, s'.ring r = s.ring r)
    (part : s'.part = s.part) (others : ∀ t, t ≠ u → s'.txn t = s.txn t ∧ s'.placesOf t = s.placesOf t)
    (places : s'.placesOf u = ((s'.txn u).map Txn.places).getD (0, 0, 0, 0))
    (right : ∀ x ∈ s'.txn u, s'.RequestRight x)
    (holds : ∀ g ∈ s'.pool.entries, g ∈ s.pool.entries
      ∨ (s'.ringOf g.transaction = some g.ring ∧ (s.ring g.ring).state = .active))
    (passing : ∀ o ∈ s'.mem.queue, o ∈ s.mem.queue
      ∨ (o.cls = .passThrough → ∃ x ∈ s'.txn o.transaction, x.ring = none ∧ x.outstanding = 1))
    (outstanding : s'.mem.outstanding = s.mem.outstanding) : s'.SoundUpTo { l with txn := none } := by
  refine h.move ring part (fun _ => id) rfl rfl (fun t => ?_) (fun g hg => ?_) (fun o ho cls => ?_)
    (outstanding ▸ h.ids)
  · by_cases same : t = u
    · subst same
      refine Or.inr ⟨?_, fun _ => right, fun r _ pos => ?_⟩
      · simpa [State.placesDue] using places
      · exact absurd pos (by simp [h.no_ops passage])
    · refine Or.inl ⟨(others t same).1, (others t same).2, ?_⟩
      simp [passage, Ne.symm same]
  · rw [ring]
    rcases holds g hg with old | ⟨ringOf, active⟩
    · rw [State.ringOf, (others _ (h.not_held passage g old)).1]
      exact h.holds g old
    · exact ⟨ringOf, Or.inl active⟩
  · rcases passing o ho with old | new
    · rw [(others _ (h.not_queued passage o old)).1]
      exact h.passing o old cls
    · exact new cls

/-- The record of a request in passage may be rewritten. -/
theorem State.SoundUpTo.setTxn (h : s.SoundUpTo l) (passage : l.txn = some u) (y : Option Txn) :
    (s.setTxn u y).SoundUpTo l := by
  refine h.move (fun _ => rfl) rfl (fun _ => id) rfl rfl (fun t => ?_) (fun g hg => ?_) (fun o ho cls => ?_) h.ids
  · by_cases same : t = u
    · subst same
      refine Or.inr ⟨?_, fun other => absurd passage other, fun r _ pos => ?_⟩
      · rw [State.placesDue, if_pos passage]
        exact h.nowhere passage
      · exact absurd pos (by simp [h.no_ops passage])
    · exact Or.inl ⟨State.txn_setTxn_ne s same y, rfl, Iff.rfl⟩
  · rw [State.ringOf, State.txn_setTxn_ne s (h.not_held passage g hg)]
    exact h.holds g hg
  · rw [State.txn_setTxn_ne s (h.not_queued passage o ho)]
    exact h.passing o ho cls

theorem Txn.answered_right (s : State) (x : Txn) (a : Status) (d : List Byte) : s.RequestRight (x.answered a d) where
  status := by simp [Txn.answered]
  outstanding := by simp [Txn.answered]
  waits := by simp [Txn.answered]

/-- An answer puts a request in passage into the ready order (R141, R146). -/
theorem State.SoundUpTo.answer (h : s.SoundUpTo l) (passage : l.txn = some u) (a : Status) (d : List Byte) :
    (s.answer u a d).SoundUpTo { l with txn := none } := by
  obtain ⟨awaiting, held, ops, ready⟩ := State.placesOf_iff.mp (h.nowhere passage)
  cases free : s.txn u with
  | none =>
    have : s.answer u a d = s := by simp [State.answer, free]
    rw [this]
    refine h.arrive passage (fun _ => rfl) rfl (fun _ _ => ⟨rfl, rfl⟩) ?_ ?_ (fun _ => Or.inl) (fun _ => Or.inl) rfl
    · rw [free, h.nowhere passage]
      rfl
    · simp [free]
  | some x =>
    have order := s.answer_readyOrder_of_some free a d
    have txn : (s.answer u a d).txn u = some (x.answered a d) := by rw [State.txn_answer, if_pos rfl, free]; rfl
    refine h.arrive passage (by simp) (by simp) (fun t ht => ⟨by rw [State.txn_answer, if_neg ht], ?_⟩) ?_ ?_
      (by simp +contextual) (by simp +contextual) (by simp)
    · simp [State.placesOf_eq, State.opsOf, order, List.count_append, Ne.symm ht]
    · rw [txn, State.placesOf_eq, order]
      simpa [State.opsOf, Txn.places, Txn.answered, List.count_append, awaiting, held, ready] using ops
    · intro y hy
      rw [txn] at hy
      cases hy
      exact x.answered_right _ a d

end

end

end Sys2Proof.Machine
end

section
/-! The ways of a request between its places: out of the admissions, the pool, the ready order and the issue queue, and
into them. -/

namespace Sys2Proof.Machine

section
variable {s s' : State} {l : Lapse} {u : TxnNo}

/-! ## Arrivals -/

theorem mem_partOperations {x : Txn} {c : OpClass} {o : Operation} (h : o ∈ partOperations u x c) :
    o.transaction = u ∧ o.cls = c := by
  unfold partOperations at h
  split at h
  · cases h
  · rcases List.mem_cons.mp h with rfl | h
    · exact ⟨rfl, rfl⟩
    · split at h
      · cases h
      · rw [List.mem_singleton.mp h]
        exact ⟨rfl, rfl⟩

theorem partOperations_length_eq {x : Txn} (c : OpClass) (parts : x.parts.length = 1 ∨ x.parts.length = 2) :
    (partOperations u x c).length = x.parts.length := by
  unfold partOperations
  match x.parts, parts with
  | [_], _ => rfl
  | [_, _], _ => rfl

theorem countP_partOperations {t : TxnNo} {x : Txn} (c : OpClass) (parts : x.parts.length = 1 ∨ x.parts.length = 2) :
    (partOperations u x c).countP (fun o => o.transaction = t) = if u = t then x.parts.length else 0 := by
  by_cases same : u = t
  · rw [if_pos same, ← partOperations_length_eq (u := u) c parts, List.countP_eq_length]
    exact fun o ho => decide_eq_true ((mem_partOperations ho).1.trans same)
  · rw [if_neg same, List.countP_eq_zero]
    exact fun o ho => by simp [(mem_partOperations ho).1, same]

/-- A request in passage joins the issue queue with its parts (R54, R82, R142). -/
theorem State.SoundUpTo.enqueueParts (h : s.SoundUpTo l) (passage : l.txn = some u) {x : Txn} {c : OpClass}
    (status : x.status = none) (parts : x.parts.length = 1 ∨ x.parts.length = 2)
    (cls : c = .passThrough → x.ring = none ∧ x.parts.length = 1) :
    (s.enqueueParts u x c).SoundUpTo { l with txn := none } := by
  obtain ⟨awaiting, held, ops, ready⟩ := State.placesOf_iff.mp (h.nowhere passage)
  have opsOf : ∀ t, (s.enqueueParts u x c).opsOf t = s.opsOf t + if u = t then x.parts.length else 0 := by
    intro t
    simp only [State.opsOf, State.enqueueParts_queue, State.enqueueParts_outstanding, List.countP_append,
      countP_partOperations c parts]
    omega
  have txn := s.txn_enqueueParts u u x c
  rw [if_pos rfl] at txn
  refine h.arrive passage (by simp) (by simp) (fun t ht => ⟨by rw [State.txn_enqueueParts, if_neg ht], ?_⟩) ?_ ?_
    (by simp +contextual) (fun o ho => ?_) (by simp)
  · simp [State.placesOf_eq, opsOf, Ne.symm ht]
  · rw [txn, State.placesOf_eq, opsOf]
    simp [Txn.places, awaiting, held, ready, ops]
  · intro y hy
    rw [txn] at hy
    cases hy
    exact ⟨by simp [status], fun _ => by dsimp only; omega, by simp⟩
  · rw [State.enqueueParts_queue] at ho
    refine (List.mem_append.mp ho).imp_right fun new pass => ?_
    obtain ⟨mine, same⟩ := mem_partOperations new
    rw [mine, txn]
    exact ⟨_, rfl, cls (same.symm.trans pass)⟩

/-- A request in passage is granted a hold of a ring in ACTIVE (R91, R94). -/
theorem State.SoundUpTo.grantHold (h : s.SoundUpTo l) (passage : l.txn = some u) {x : Txn} {r : RingNo} {e : Extent}
    {w : HoldReason} {i : SlotNo} (status : x.status = none) (parts : x.parts.length = 1 ∨ x.parts.length = 2)
    (ring : x.ring = some r) (range : x.range = some e) (fits : (s.ring r).Fits e)
    (active : (s.ring r).state = .active) :
    (s.grantHold u x r w i).SoundUpTo { l with txn := none } := by
  obtain ⟨awaiting, held, ops, ready⟩ := State.placesOf_iff.mp (h.nowhere passage)
  have entries : ∃ g : HoldEntry, g.transaction = u ∧ g.ring = r
      ∧ (s.grantHold u x r w i).pool.entries = s.pool.entries ++ [g] := ⟨_, rfl, rfl, rfl⟩
  obtain ⟨g, mine, place, entries⟩ := entries
  have txn := s.txn_grantHold u u x r w i
  rw [if_pos rfl] at txn
  refine h.arrive passage (by simp) (by simp) (fun t ht => ⟨by rw [State.txn_grantHold, if_neg ht], ?_⟩) ?_ ?_
    (fun k hk => ?_) (by simp +contextual) (by simp)
  · simp [State.placesOf_eq, State.opsOf, entries, mine, Ne.symm ht]
  · rw [txn, State.placesOf_eq, entries]
    simpa [State.opsOf, Txn.places, awaiting, held, ready, mine] using ops
  · intro y hy
    rw [txn] at hy
    cases hy
    refine ⟨by simp [status], by simp, fun _ => ⟨parts, r, ring, e, range, fun _ => ?_⟩⟩
    rw [State.ring_grantHold]
    exact ⟨by simp [active], fits⟩
  · rw [entries] at hk
    refine (List.mem_append.mp hk).imp_right fun new => ?_
    rw [List.mem_singleton.mp new, State.ringOf, mine, txn, place]
    exact ⟨ring, active⟩

/-- A hold that is asked for is granted or answered BUSY (R94). -/
theorem State.SoundUpTo.askHold (h : s.SoundUpTo l) (passage : l.txn = some u) {x : Txn} {r : RingNo} {e : Extent}
    {w : HoldReason} (status : x.status = none) (parts : x.parts.length = 1 ∨ x.parts.length = 2)
    (ring : x.ring = some r) (range : x.range = some e) (fits : (s.ring r).Fits e)
    (active : (s.ring r).state = .active) :
    (s.askHold u x r w).SoundUpTo { l with txn := none } := by
  unfold State.askHold
  split
  · split
    · exact h.grantHold passage status parts ring range fits active
    · exact h.answer passage _ _
  · exact h.answer passage _ _

/-- A request in passage that is recorded as a ring's waits for its admission (R3, R142). -/
theorem State.SoundUpTo.await (h : s.SoundUpTo l) (passage : l.txn = some u) {x : Txn} {r : RingNo} {e : Extent}
    (stage : x.stage = .accepted) (status : x.status = none) (parts : x.parts.length = 1 ∨ x.parts.length = 2)
    (ring : x.ring = some r) (range : x.range = some e) (on : (s.ring r).state ≠ .off) (fits : (s.ring r).Fits e) :
    State.SoundUpTo { s.setTxn u (some x) with awaiting := s.awaiting ++ [u] } { l with txn := none } := by
  obtain ⟨awaiting, held, ops, ready⟩ := State.placesOf_iff.mp (h.nowhere passage)
  refine h.arrive passage (fun _ => rfl) rfl (fun t ht => ⟨State.txn_setTxn_ne s ht _, ?_⟩) ?_ ?_ (fun _ => Or.inl)
    (fun _ => Or.inl) rfl
  · simp [State.placesOf_eq, State.opsOf, Ne.symm ht, List.count_append]
  · show _ = (((s.setTxn u (some x)).txn u).map Txn.places).getD (0, 0, 0, 0)
    rw [State.txn_setTxn_self, State.placesOf_eq]
    simpa [State.opsOf, Txn.places, stage, awaiting, held, ready, List.count_append] using ops
  · intro y hy
    change y ∈ (s.setTxn u (some x)).txn u at hy
    rw [State.txn_setTxn_self] at hy
    cases hy
    exact ⟨by simp [status, stage], by simp [stage], fun _ => ⟨parts, r, ring, e, range, fun _ => ⟨on, fits⟩⟩⟩

/-- A request in passage whose entry is free is nowhere to be put (R146). -/
theorem State.SoundUpTo.free (h : s.SoundUpTo l) (passage : l.txn = some u) (free : s.txn u = none) :
    s.SoundUpTo { l with txn := none } := by
  refine h.arrive passage (fun _ => rfl) rfl (fun _ _ => ⟨rfl, rfl⟩) ?_ ?_ (fun _ => Or.inl) (fun _ => Or.inl) rfl
  · rw [free, h.nowhere passage]
    rfl
  · simp [free]

/-! ## Where a request is -/

theorem Txn.places_of_awaiting {x : Txn} (h : 0 < x.places.1) : x.stage = .accepted ∧ x.places = (1, 0, 0, 0) := by
  unfold Txn.places at *
  cases stage : x.stage <;> simp [stage] at h ⊢

theorem Txn.places_of_held {x : Txn} (h : 0 < x.places.2.1) : x.stage = .held ∧ x.places = (0, 1, 0, 0) := by
  unfold Txn.places at *
  cases stage : x.stage <;> simp [stage] at h ⊢

theorem Txn.places_of_ops {x : Txn} (h : 0 < x.places.2.2.1) :
    (x.stage = .queued ∨ x.stage = .outstanding) ∧ x.places = (0, 0, x.outstanding, 0) := by
  unfold Txn.places at *
  cases stage : x.stage <;> simp [stage] at h ⊢

theorem Txn.places_of_ready {x : Txn} (h : 0 < x.places.2.2.2) : x.stage = .ready ∧ x.places = (0, 0, 0, 1) := by
  unfold Txn.places at *
  cases stage : x.stage <;> simp [stage] at h ⊢

/-- A request that is named somewhere has an entry, and is where its stage says. -/
theorem State.SoundUpTo.placed (h : s.SoundUpTo l) (named : s.placesOf u ≠ (0, 0, 0, 0)) :
    ∃ x, s.txn u = some x ∧ s.placesOf u = x.places ∧ s.RequestRight x := by
  have at_rest : l.txn ≠ some u := fun passage => named (h.nowhere passage)
  have places := h.places u
  rw [State.placesDue, if_neg at_rest] at places
  cases txn : s.txn u with
  | none =>
    rw [txn] at places
    exact absurd places named
  | some x =>
    rw [txn] at places
    exact ⟨x, rfl, places, h.requests u at_rest x txn⟩

/-- A request among the admissions is ACCEPTED and nowhere else (R3, R141). -/
theorem State.SoundUpTo.awaiting_placed (h : s.SoundUpTo l) (mem : u ∈ s.awaiting) :
    ∃ x, s.txn u = some x ∧ x.stage = .accepted ∧ s.placesOf u = (1, 0, 0, 0) ∧ s.RequestRight x := by
  have pos : 0 < (s.placesOf u).1 := List.count_pos_iff.mpr mem
  obtain ⟨x, txn, places, right⟩ := h.placed fun zero => by rw [zero] at pos; cases pos
  rw [places] at pos ⊢
  obtain ⟨stage, one⟩ := Txn.places_of_awaiting pos
  exact ⟨x, txn, stage, one, right⟩

/-- A request that a hold entry names is HELD and nowhere else (R92, R141). -/
theorem State.SoundUpTo.held_placed (h : s.SoundUpTo l) {g : HoldEntry} (mem : g ∈ s.pool.entries) :
    ∃ x, s.txn g.transaction = some x ∧ x.stage = .held ∧ s.placesOf g.transaction = (0, 1, 0, 0)
      ∧ s.RequestRight x := by
  have pos : 0 < (s.placesOf g.transaction).2.1 := List.countP_pos_iff.mpr ⟨g, mem, by simp⟩
  obtain ⟨x, txn, places, right⟩ := h.placed fun zero => by rw [zero] at pos; cases pos
  rw [places] at pos ⊢
  obtain ⟨stage, one⟩ := Txn.places_of_held pos
  exact ⟨x, txn, stage, one, right⟩

/-- A request with operations queued or live is QUEUED or OUTSTANDING, and they are its parts outstanding (R141). -/
theorem State.SoundUpTo.ops_placed (h : s.SoundUpTo l) (pos : 0 < s.opsOf u) :
    ∃ x, s.txn u = some x ∧ (x.stage = .queued ∨ x.stage = .outstanding) ∧ s.placesOf u = (0, 0, x.outstanding, 0)
      ∧ s.RequestRight x := by
  change 0 < (s.placesOf u).2.2.1 at pos
  obtain ⟨x, txn, places, right⟩ := h.placed fun zero => by rw [zero] at pos; cases pos
  rw [places] at pos ⊢
  obtain ⟨stage, ops⟩ := Txn.places_of_ops pos
  exact ⟨x, txn, stage, ops, right⟩

/-- A request in the ready order is READY and nowhere else (R141, R146). -/
theorem State.SoundUpTo.ready_placed (h : s.SoundUpTo l) (mem : u ∈ s.sys.readyOrder) :
    ∃ x, s.txn u = some x ∧ x.stage = .ready ∧ s.placesOf u = (0, 0, 0, 1) ∧ s.RequestRight x := by
  have pos : 0 < (s.placesOf u).2.2.2 := List.count_pos_iff.mpr mem
  obtain ⟨x, txn, places, right⟩ := h.placed fun zero => by rw [zero] at pos; cases pos
  rw [places] at pos ⊢
  obtain ⟨stage, one⟩ := Txn.places_of_ready pos
  exact ⟨x, txn, stage, one, right⟩

/-! ## Departures -/

/-- A request leaves its one place: the rings, the other requests and what is recorded of them are as they were, and no
operation of a ring's leaves with it. -/
theorem State.SoundUpTo.depart (h : s.SoundUpTo l) (at_rest : l.txn = none) (ring : ∀ r, s'.ring r = s.ring r)
    (part : s'.part = s.part) (txn : ∀ t, s'.txn t = s.txn t) (others : ∀ t, t ≠ u → s'.placesOf t = s.placesOf t)
    (gone : s'.placesOf u = (0, 0, 0, 0)) (idle : 0 < s.opsOf u → s.ringOf u = none)
    (holds : ∀ g ∈ s'.pool.entries, g ∈ s.pool.entries) (queue : ∀ o ∈ s'.mem.queue, o ∈ s.mem.queue)
    (outstanding : s'.mem.outstanding = s.mem.outstanding) : s'.SoundUpTo { l with txn := some u } := by
  refine h.move ring part (fun _ => id) rfl rfl (fun t => ?_) (fun g hg => ?_) (fun o ho cls => ?_)
    (outstanding ▸ h.ids)
  · by_cases same : t = u
    · subst same
      refine Or.inr ⟨?_, fun other => absurd rfl other, fun r ringOf pos => ?_⟩
      · rw [gone, State.placesDue, if_pos rfl]
      · rw [idle pos] at ringOf
        cases ringOf
    · exact Or.inl ⟨txn t, others t same, by simp [at_rest, Ne.symm same]⟩
  · rw [ring, State.ringOf, txn]
    exact h.holds g (holds g hg)
  · rw [txn]
    exact h.passing o (queue o ho) cls

/-- The oldest admission is taken (R3). -/
theorem State.SoundUpTo.depart_awaiting (h : s.SoundUpTo l) (at_rest : l.txn = none) {rest : List TxnNo}
    (awaiting : s.awaiting = u :: rest) : State.SoundUpTo { s with awaiting := rest } { l with txn := some u } := by
  obtain ⟨x, -, -, places, -⟩ := h.awaiting_placed (u := u) (by simp [awaiting])
  rw [State.placesOf_eq, awaiting] at places
  simp only [Prod.mk.injEq, List.count_cons_self, Nat.add_eq_right] at places
  obtain ⟨none_left, held, ops, ready⟩ := places
  refine h.depart at_rest (fun _ => rfl) rfl (fun _ => rfl) (fun t ht => ?_) ?_ (fun pos => absurd ops pos.ne')
    (fun _ => id) (fun _ => id) rfl
  · simp [State.placesOf_eq, State.opsOf, awaiting, Ne.symm ht]
  · simpa [State.placesOf_eq, State.opsOf, none_left, held, ready] using ops

/-- The head of the ready order is taken (R146). -/
theorem State.SoundUpTo.depart_ready (h : s.SoundUpTo l) (at_rest : l.txn = none) {rest : List TxnNo}
    (order : s.sys.readyOrder = u :: rest) :
    State.SoundUpTo { s with sys := { s.sys with readyOrder := rest } } { l with txn := some u } := by
  obtain ⟨x, -, -, places, -⟩ := h.ready_placed (u := u) (by simp [order])
  rw [State.placesOf_eq, order] at places
  simp only [Prod.mk.injEq, List.count_cons_self, Nat.add_eq_right] at places
  obtain ⟨awaiting, held, ops, none_left⟩ := places
  refine h.depart at_rest (fun _ => rfl) rfl (fun _ => rfl) (fun t ht => ?_) ?_ (fun pos => absurd ops pos.ne')
    (fun _ => id) (fun _ => id) rfl
  · simp [State.placesOf_eq, State.opsOf, order, Ne.symm ht]
  · simpa [State.placesOf_eq, State.opsOf, none_left, held, awaiting] using ops

/-- A request takes a free entry (R137). -/
theorem State.SoundUpTo.depart_free (h : s.SoundUpTo l) (at_rest : l.txn = none) (free : s.txn u = none) :
    s.SoundUpTo { l with txn := some u } := by
  have places := h.places u
  rw [State.placesDue, at_rest, if_neg (by simp), free] at places
  exact h.depart at_rest (fun _ => rfl) rfl (fun _ => rfl) (fun _ _ => rfl) places
    (fun _ => by rw [State.ringOf, free]; rfl) (fun _ => id) (fun _ => id) rfl

theorem HoldPool.remove_entries (p : HoldPool) (c : HoldEntry → Bool) :
    (p.remove (p.entries.filter c)).entries = p.entries.filter fun h => !c h := by
  refine List.filter_congr fun h hm => ?_
  cases chosen : c h <;> simp [chosen, hm]

/-- No request is held twice. -/
theorem State.SoundUpTo.held_nodup (h : s.SoundUpTo l) : (s.pool.entries.map HoldEntry.transaction).Nodup := by
  refine List.nodup_iff_count_le_one.mpr fun t => ?_
  rw [List.count, List.countP_map]
  change (s.placesOf t).2.1 ≤ 1
  by_cases pos : 0 < (s.placesOf t).2.1
  · obtain ⟨g, mem, same⟩ := List.countP_pos_iff.mp pos
    obtain ⟨x, -, -, places, -⟩ := h.held_placed mem
    rw [of_decide_eq_true same] at places
    rw [places]
  · omega

/-- The place of a request in a pool that some entries left. -/
theorem countP_remaining {p : HoldPool} (nodup : (p.entries.map HoldEntry.transaction).Nodup) (c : HoldEntry → Bool)
    (t : TxnNo) :
    (p.entries.filter fun g => !c g).countP (fun g => g.transaction = t)
      = if ∃ g ∈ p.entries, c g = true ∧ g.transaction = t then 0
        else p.entries.countP fun g => g.transaction = t := by
  split
  · rename_i leaves
    obtain ⟨g, mem, chosen, mine⟩ := leaves
    refine List.countP_eq_zero.mpr fun k hk => ?_
    obtain ⟨hk, stays⟩ := List.mem_filter.mp hk
    intro same
    have := List.inj_on_of_nodup_map nodup hk mem ((of_decide_eq_true same).trans mine.symm)
    simp [this, chosen] at stays
  · rename_i stays
    rw [List.countP_filter]
    refine List.countP_congr fun k hk => ?_
    cases chosen : c k
    · simp
    · simpa using fun mine => stays ⟨k, hk, chosen, mine⟩

/-- A held request leaves the pool (R99). -/
theorem State.SoundUpTo.depart_held (h : s.SoundUpTo l) (at_rest : l.txn = none) {g : HoldEntry}
    (mem : g ∈ s.pool.entries) :
    State.SoundUpTo { s with pool := s.pool.remove [g] } { l with txn := some g.transaction } := by
  obtain ⟨x, -, -, places, -⟩ := h.held_placed mem
  obtain ⟨awaiting, held, ops, ready⟩ := State.placesOf_iff.mp places
  have remaining := countP_remaining h.held_nodup fun k => List.contains [g] k
  have only : ∀ t, (∃ k ∈ s.pool.entries, List.contains [g] k = true ∧ k.transaction = t) ↔ g.transaction = t := by
    simp [mem]
  refine h.depart at_rest (fun _ => rfl) rfl (fun _ => rfl) (fun t ht => ?_) ?_ (fun pos => absurd ops pos.ne')
    (fun k hk => (List.mem_filter.mp hk).1) (fun _ => id) rfl
  · show (s.awaiting.count t, (s.pool.entries.filter fun k => !(List.contains [g] k)).countP _, s.opsOf t, _) = _
    rw [remaining, if_neg fun leaves => ht ((only t).mp leaves).symm]
    rfl
  · show (s.awaiting.count _, (s.pool.entries.filter fun k => !(List.contains [g] k)).countP _, s.opsOf _, _) = _
    rw [remaining, if_pos ((only _).mpr rfl), awaiting, ops]
    exact congrArg _ (congrArg _ (congrArg _ ready))

/-! ## The pool -/

/-- Held requests that are answered leave the pool for the ready order (R100, R103). -/
theorem State.SoundUpTo.answerHeld (h : s.SoundUpTo l) (c : HoldEntry → Bool) (f : HoldEntry → Status) :
    (s.answerHeld c f).SoundUpTo l := by
  have nodup := h.held_nodup
  have gone_nodup : ((s.pool.entries.filter c).map HoldEntry.transaction).Nodup :=
    nodup.sublist (List.filter_sublist.map _)
  have entries : (s.answerHeld c f).pool.entries = s.pool.entries.filter fun g => !c g := by
    rw [State.answerHeld_poolIs, HoldPool.remove_entries]
  have order : (s.answerHeld c f).sys.readyOrder
      = s.sys.readyOrder ++ (s.pool.entries.filter c).map HoldEntry.transaction :=
    State.foldl_answer_readyOrder f _ s fun g hg => by
      obtain ⟨x, txn, -⟩ := h.held_placed (List.mem_filter.mp hg).1
      simp [txn]
  have places : ∀ t, (s.answerHeld c f).placesOf t = (s.awaiting.count t,
      if ∃ g ∈ s.pool.entries, c g = true ∧ g.transaction = t then 0
        else s.pool.entries.countP fun g => g.transaction = t,
      s.opsOf t, s.sys.readyOrder.count t + ((s.pool.entries.filter c).map HoldEntry.transaction).count t) := by
    intro t
    rw [State.placesOf_eq, entries, order, countP_remaining nodup, List.count_append, State.opsOf,
      State.answerHeld_awaiting, State.answerHeld_mem]
    rfl
  have other : ∀ t, (¬ ∃ g ∈ s.pool.entries, c g = true ∧ g.transaction = t) →
      (s.answerHeld c f).txn t = s.txn t := by
    intro t stays
    rw [State.txn_answerHeld]
    refine State.txn_foldl_answer_of_not_mem f t _ s fun g hg mine => stays ?_
    exact ⟨g, (List.mem_filter.mp hg).1, (List.mem_filter.mp hg).2, mine⟩
  refine h.move (by simp) (by simp) (fun _ => id) rfl rfl (fun t => ?_) (fun g hg => ?_) (fun o ho cls => ?_)
    (by simpa using h.ids)
  · by_cases leaves : ∃ g ∈ s.pool.entries, c g = true ∧ g.transaction = t
    · refine Or.inr ?_
      have due := places t
      rw [if_pos leaves] at due
      obtain ⟨g, mem, chosen, rfl⟩ := leaves
      have gone : g ∈ s.pool.entries.filter c := List.mem_filter.mpr ⟨mem, chosen⟩
      obtain ⟨x, txn, -, held, -⟩ := h.held_placed mem
      obtain ⟨awaiting, -, ops, ready⟩ := State.placesOf_iff.mp held
      have answered : (s.answerHeld c f).txn g.transaction = some (x.answered (f g) []) := by
        rw [State.txn_answerHeld, State.txn_foldl_answer_of_mem f _ s gone gone_nodup, txn]
        rfl
      refine ⟨?_, fun _ y hy => ?_, fun r _ pos => absurd ops pos.ne'⟩
      · rw [due, awaiting, ops, ready, List.count_eq_one_of_mem gone_nodup (List.mem_map_of_mem gone), State.placesDue,
          if_neg fun passage => h.not_held passage g mem rfl, answered]
        rfl
      · rw [answered] at hy
        cases hy
        exact x.answered_right _ _ _
    · have not_gone : t ∉ (s.pool.entries.filter c).map HoldEntry.transaction := by
        intro listed
        obtain ⟨g, hg, mine⟩ := List.mem_map.mp listed
        exact leaves ⟨g, (List.mem_filter.mp hg).1, (List.mem_filter.mp hg).2, mine⟩
      refine Or.inl ⟨other t leaves, ?_, Iff.rfl⟩
      rw [places, if_neg leaves, List.count_eq_zero_of_not_mem not_gone]
      rfl
  · rw [entries] at hg
    rw [State.ringOf_answerHeld, State.ring_answerHeld]
    exact h.holds g (List.mem_filter.mp hg).1
  · rw [State.answerHeld_mem] at ho
    rw [other]
    · exact h.passing o ho cls
    · rintro ⟨g, mem, -, mine⟩
      obtain ⟨x, -, -, held, -⟩ := h.held_placed mem
      rw [mine] at held
      exact s.not_queued_of_places (by rw [held]) o ho rfl

theorem countP_transaction_map {f : HoldEntry → HoldEntry} (keeps : ∀ g, (f g).transaction = g.transaction)
    (entries : List HoldEntry) (t : TxnNo) :
    (entries.map f).countP (fun g => g.transaction = t) = entries.countP fun g => g.transaction = t := by
  rw [List.countP_map]
  exact List.countP_congr fun g _ => by simp [keeps]

/-- A release scan moves no request (R97). -/
theorem State.SoundUpTo.releaseScan (h : s.SoundUpTo l) (r : RingNo) (examines : HoldReason → Bool) :
    (s.releaseScan r examines).SoundUpTo l := by
  have same : ∀ g ∈ (s.releaseScan r examines).pool.entries,
      ∃ k ∈ s.pool.entries, k.transaction = g.transaction ∧ k.ring = g.ring := by
    intro g hg
    obtain ⟨k, hk, rfl⟩ := List.mem_map.mp hg
    exact ⟨k, hk, by split <;> rfl, by split <;> rfl⟩
  refine h.move (by simp) (by simp) (fun _ => id) rfl rfl (fun t => Or.inl ⟨by simp, ?_, Iff.rfl⟩) (fun g hg => ?_)
    (by simpa using h.passing) (by simpa using h.ids)
  · show (_, List.countP _ (List.map _ s.pool.entries), _, _) = _
    rw [countP_transaction_map]
    · simp only [State.releaseScan_awaiting, State.releaseScan_mem, State.releaseScan_sys]
      rfl
    · intro g
      split <;> rfl
  · obtain ⟨k, hk, mine, place⟩ := same g hg
    rw [← mine, ← place, State.ringOf, State.txn_releaseScan, State.ring_releaseScan]
    exact h.holds k hk

/-! ## Operations of the memory port -/

/-- The head of the issue queue, a pass-through request's one operation, is taken off the queue (R7, R154). -/
theorem State.SoundUpTo.depart_refused (h : s.SoundUpTo l) (at_rest : l.txn = none) {op : Operation}
    {rest : List Operation} (queue : s.mem.queue = op :: rest) (pass : op.cls = .passThrough) :
    State.SoundUpTo { s with mem := { s.mem with queue := rest } } { l with txn := some op.transaction } := by
  obtain ⟨x, txn, ring, one⟩ := h.passing op (by simp [queue]) pass
  have counted : ∀ t, s.opsOf t = State.opsOf { s with mem := { s.mem with queue := rest } } t
      + if op.transaction = t then 1 else 0 := by
    intro t
    simp only [State.opsOf, queue, List.countP_cons, decide_eq_true_eq]
    omega
  have mine := counted op.transaction
  rw [if_pos rfl] at mine
  obtain ⟨x', txn', -, places, -⟩ := h.ops_placed (u := op.transaction) (by omega)
  obtain rfl : x = x' := Option.some_injective _ (txn.symm.trans txn')
  obtain ⟨awaiting, held, ops, ready⟩ := State.placesOf_iff.mp places
  refine h.depart at_rest (fun _ => rfl) rfl (fun _ => rfl) (fun t ht => ?_) ?_ (fun _ => ?_) (fun _ => id)
    (fun o ho => by rw [queue]; exact List.mem_cons_of_mem _ ho) rfl
  · have := counted t
    rw [if_neg (Ne.symm ht)] at this
    rw [State.placesOf_eq, State.placesOf_eq, this]
    rfl
  · rw [State.placesOf_eq, show State.opsOf _ op.transaction = 0 by omega]
    simp [awaiting, held, ready]
  · rw [State.ringOf, show s.txn op.transaction = some x from txn]
    exact ring

/-- A request's entry as the issue of one of its operations leaves it (R141, R156). -/
def Txn.issued (x : Txn) : Txn := if x.stage = .queued then { x with stage := .outstanding } else x

theorem State.txn_issue (s : State) (op : Operation) (rest : List Operation) (id : OpId) (t : TxnNo) :
    (s.issue op rest id).txn t = if t = op.transaction then (s.txn t).map Txn.issued else s.txn t := by
  unfold State.issue
  extract_lets record sent port s1
  have same : ∀ t, s1.txn t = s.txn t := fun _ => rfl
  by_cases mine : t = op.transaction
  · subst mine
    rw [if_pos rfl]
    cases txn : s1.txn op.transaction with
    | none => simp only [txn, ← same, Option.map_none]
    | some x =>
      rw [← same, txn]
      simp only [Option.map_some, Txn.issued]
      split
      · exact State.txn_setTxn_self _ _ _
      · exact txn
  · rw [if_neg mine]
    cases s1.txn op.transaction with
    | none => exact same t
    | some x =>
      simp only []
      split
      · exact State.txn_setTxn_ne s1 mine _
      · exact same t

/-- What is recorded of an operation under its id (R156). -/
def State.issueRecord (s : State) (op : Operation) (id : OpId) : Outstanding where
  id := id
  transaction := op.transaction
  part := op.part
  direction := op.direction
  address := op.address
  length := op.length
  deadline := s.time.count + s.mgmt.memoryTimeout.setWidth 32
  condition := .live

theorem State.issue_queue (s : State) (op : Operation) (rest : List Operation) (id : OpId) :
    (s.issue op rest id).mem.queue = rest := by
  unfold State.issue
  dsimp only
  (repeat' split) <;> rfl

theorem State.issue_outstanding (s : State) (op : Operation) (rest : List Operation) (id : OpId) :
    (s.issue op rest id).mem.outstanding = s.mem.outstanding ++ [s.issueRecord op id] := by
  unfold State.issue
  dsimp only
  (repeat' split) <;> rfl

theorem State.issue_readyOrder (s : State) (op : Operation) (rest : List Operation) (id : OpId) :
    (s.issue op rest id).sys.readyOrder = s.sys.readyOrder := by
  unfold State.issue
  dsimp only
  (repeat' split) <;> rfl

theorem Txn.issued_facts (x : Txn) : x.issued.ring = x.ring ∧ x.issued.outstanding = x.outstanding
    ∧ x.issued.status = x.status := by
  unfold Txn.issued
  split <;> exact ⟨rfl, rfl, rfl⟩

/-- A request with operations out stays one, in the places it was in, when one of them is issued. -/
theorem Txn.issued_stage {x : Txn} (stage : x.stage = .queued ∨ x.stage = .outstanding) :
    x.issued.stage = .outstanding ∧ x.issued.places = x.places := by
  unfold Txn.issued Txn.places
  rcases stage with stage | stage <;> simp [stage]

/-- The head of the issue queue is issued under a free id (R156). -/
theorem State.SoundUpTo.issue (h : s.SoundUpTo l) {op : Operation} {rest : List Operation} {id : OpId}
    (queue : s.mem.queue = op :: rest) (free : s.mem.freeId = some id) : (s.issue op rest id).SoundUpTo l := by
  have outstanding := s.issue_outstanding op rest id
  have opsOf : ∀ t, (s.issue op rest id).opsOf t = s.opsOf t := by
    intro t
    simp only [State.opsOf, queue, s.issue_queue, outstanding, List.countP_append, List.countP_cons, List.countP_nil,
      State.issueRecord, true_and, decide_eq_true_eq]
    omega
  have places : ∀ t, (s.issue op rest id).placesOf t = s.placesOf t := by
    intro t
    rw [State.placesOf_eq, opsOf, s.issue_readyOrder]
    simp [State.placesOf_eq]
  have pos : 0 < s.opsOf op.transaction :=
    Nat.add_pos_left (List.countP_pos_iff.mpr ⟨op, by simp [queue], by simp⟩) _
  obtain ⟨x, txn, stage, due, right⟩ := h.ops_placed pos
  have issued : (s.issue op rest id).txn op.transaction = some x.issued := by
    rw [State.txn_issue, if_pos rfl, txn]
    rfl
  have other : ∀ t, t ≠ op.transaction → (s.issue op rest id).txn t = s.txn t := by
    intro t ht
    rw [State.txn_issue, if_neg ht]
  obtain ⟨ring, count, status⟩ := x.issued_facts
  obtain ⟨now, same⟩ := Txn.issued_stage stage
  refine h.move (by simp) (by simp) (fun _ h => h) rfl rfl (fun t => ?_) (fun g hg => ?_) (fun o ho cls => ?_) ?_
  · by_cases mine : t = op.transaction
    · subst mine
      refine Or.inr ⟨?_, fun _ y hy => ?_, fun r ringOf _ => Or.inr ⟨(opsOf _).symm ▸ pos, ?_⟩⟩
      · rw [places, h.places, State.placesDue, State.placesDue, txn, issued]
        simp only [Option.map_some, same]
      · rw [issued] at hy
        cases hy
        refine ⟨?_, fun _ => count ▸ right.outstanding stage, fun w => by simp [now] at w⟩
        rw [status, now, right.status]
        rcases stage with stage | stage <;> simp [stage]
      · rw [State.ringOf, issued]
        rw [State.ringOf, txn] at ringOf
        exact ring.trans ringOf
    · exact Or.inl ⟨other t mine, places t, Iff.rfl⟩
  · rw [State.issue_pool] at hg
    obtain ⟨y, -, -, held, -⟩ := h.held_placed hg
    rw [State.ringOf, other, State.ring_issue]
    · exact h.holds g hg
    · intro mine
      rw [mine] at held
      exact absurd (congrArg (fun p => p.2.2.1) held) pos.ne'
  · rw [s.issue_queue] at ho
    obtain ⟨y, hy, pass⟩ := h.passing o (by rw [queue]; exact List.mem_cons_of_mem _ ho) cls
    by_cases mine : o.transaction = op.transaction
    · rw [mine, txn] at hy
      cases hy
      exact ⟨x.issued, by rw [mine]; exact issued, ring.trans pass.1, count.trans pass.2⟩
    · exact ⟨y, by rw [other _ mine]; exact hy, pass⟩
  · rw [outstanding, List.map_append, List.nodup_append]
    refine ⟨h.ids, by simp, fun i hi j hj => ?_⟩
    obtain ⟨o, ho, rfl⟩ := List.mem_map.mp hi
    rw [List.map_singleton, List.mem_singleton] at hj
    exact hj ▸ MemoryPort.freeId_spec free o ho

/-- An operation of a request ends: it is no longer live, and every other operation is as it was (R157, R158). -/
structure State.Ends (s s' : State) (t : TxnNo) : Prop where
  ring : ∀ r, s'.ring r = s.ring r
  part : s'.part = s.part
  txn : ∀ t, s'.txn t = s.txn t
  awaiting : s'.awaiting = s.awaiting
  entries : s'.pool.entries = s.pool.entries
  ready : s'.sys.readyOrder = s.sys.readyOrder
  queue : s'.mem.queue = s.mem.queue
  live : ∀ u, s.mem.outstanding.countP (fun o => o.condition = .live ∧ o.transaction = u)
    = s'.mem.outstanding.countP (fun o => o.condition = .live ∧ o.transaction = u) + if t = u then 1 else 0
  ids : (s'.mem.outstanding.map Outstanding.id).Nodup

theorem State.Ends.opsOf {t : TxnNo} (ends : s.Ends s' t) (u : TxnNo) :
    s.opsOf u = s'.opsOf u + if t = u then 1 else 0 := by
  rw [State.opsOf, State.opsOf, ends.queue, ends.live]
  omega

/-- Among operations with ids of their own, one that is live counts once. -/
theorem countP_live_eq {records : List Outstanding} (nodup : (records.map Outstanding.id).Nodup) {o : Outstanding}
    (mem : o ∈ records) (live : o.condition = .live) (u : TxnNo) :
    records.countP (fun k => k.condition = .live ∧ k.transaction = u)
      = records.countP (fun k => k.id ≠ o.id ∧ k.condition = .live ∧ k.transaction = u)
        + if o.transaction = u then 1 else 0 := by
  induction records with
  | nil => cases mem
  | cons a rest ih =>
    rw [List.map_cons, List.nodup_cons] at nodup
    rw [List.countP_cons, List.countP_cons]
    rcases List.mem_cons.mp mem with rfl | mem
    · have others : rest.countP (fun k => k.condition = .live ∧ k.transaction = u)
          = rest.countP (fun k => k.id ≠ o.id ∧ k.condition = .live ∧ k.transaction = u) := by
        refine List.countP_congr fun k hk => ?_
        have : k.id ≠ o.id := fun same => nodup.1 (same ▸ List.mem_map_of_mem hk)
        simp [this]
      rw [others]
      simp [live]
    · have : a.id ≠ o.id := fun same => nodup.1 (same ▸ List.mem_map_of_mem mem)
      rw [ih nodup.2 mem]
      simp only [this, ne_eq, not_false_eq_true, true_and]
      omega

/-- A response frees the operation's id (R157). -/
theorem State.ends_freeOperation (ids : (s.mem.outstanding.map Outstanding.id).Nodup) {o : Outstanding}
    (mem : o ∈ s.mem.outstanding) (live : o.condition = .live) : s.Ends (s.freeOperation o.id) o.transaction where
  ring _ := rfl
  part := rfl
  txn _ := rfl
  awaiting := rfl
  entries := rfl
  ready := rfl
  queue := rfl
  live u := by
    rw [countP_live_eq ids mem live, State.freeOperation_outstanding, List.countP_filter]
    congr 1
    exact List.countP_congr fun k _ => by simp [and_comm]
  ids := ids.sublist (List.filter_sublist.map _)

/-- A timeout makes the operation an orphan (R158). -/
theorem State.ends_orphan (ids : (s.mem.outstanding.map Outstanding.id).Nodup) {o : Outstanding}
    (mem : o ∈ s.mem.outstanding) (live : o.condition = .live) : s.Ends (s.orphan o.id) o.transaction where
  ring _ := rfl
  part := rfl
  txn _ := rfl
  awaiting := rfl
  entries := rfl
  ready := rfl
  queue := rfl
  live u := by
    rw [countP_live_eq ids mem live, State.orphan, List.countP_map]
    congr 1
    refine List.countP_congr fun k _ => ?_
    by_cases same : k.id = o.id <;> simp [same]
  ids := by
    have same : Outstanding.id ∘ (fun k => if k.id = o.id then { k with condition := .orphan } else k)
        = Outstanding.id := by
      funext k
      simp only [Function.comp_apply]
      split <;> rfl
    rw [State.orphan, List.map_map, same]
    exact ids

/-- The end of an operation takes one of its request's parts outstanding away (R160). With the last the request is in
passage; and the clear-end test of its ring is to come. -/
theorem State.SoundUpTo.endPart (h : s.SoundUpTo l) (at_rest : l.txn = none) (clear : l.clear = none) {t : TxnNo}
    (ends : s.Ends s' t) {x : Txn} (txn : s.txn t = some x) (p : PartNo) (e : OpEnd) :
    (s'.setTxn t (some (x.endPart p e))).SoundUpTo
      { l with txn := if (x.endPart p e).outstanding = 0 then some t else none, clear := x.ring } := by
  have mine := ends.opsOf t
  rw [if_pos rfl] at mine
  obtain ⟨y, txn', stage, places, right⟩ := h.ops_placed (u := t) (by omega)
  obtain rfl : x = y := Option.some_injective _ (txn.symm.trans txn')
  obtain ⟨awaiting, held, ops, ready⟩ := State.placesOf_iff.mp places
  have left : (x.endPart p e).outstanding = s'.opsOf t := by
    show x.outstanding - 1 = _
    omega
  have now : (s'.setTxn t (some (x.endPart p e))).placesOf t = (0, 0, (x.endPart p e).outstanding, 0) := by
    rw [State.placesOf_eq, left]
    show (s'.awaiting.count t, s'.pool.entries.countP _, s'.opsOf t, s'.sys.readyOrder.count t) = _
    rw [ends.awaiting, ends.entries, ends.ready, awaiting, held, ready]
  refine h.move ends.ring ends.part (by simp [clear]) rfl rfl (fun u => ?_) (fun g hg => ?_) (fun o ho cls => ?_)
    ends.ids
  · by_cases same : u = t
    · subst same
      refine Or.inr ⟨?_, fun waits y hy => ?_, fun r ringOf _ => Or.inl ?_⟩
      · rw [now, State.placesDue, State.txn_setTxn_self]
        by_cases last : (x.endPart p e).outstanding = 0
        · simp [last]
        · rw [if_neg last, if_neg (by simp)]
          rcases stage with stage | stage <;> simp [Txn.places, Txn.endPart, stage]
      · rw [State.txn_setTxn_self] at hy
        cases hy
        refine ⟨right.status, fun _ => Nat.pos_of_ne_zero fun last => waits (by simp [last]), fun w => ?_⟩
        rcases stage with stage | stage <;> rw [show (x.endPart p e).stage = x.stage from rfl, stage] at w <;> simp at w
      · rw [State.ringOf, txn] at ringOf
        exact ringOf
    · refine Or.inl ⟨(State.txn_setTxn_ne s' same _).trans (ends.txn u), ?_, ?_⟩
      · have other := ends.opsOf u
        rw [if_neg (Ne.symm same)] at other
        rw [State.placesOf_eq, State.placesOf_eq, other]
        show (s'.awaiting.count u, s'.pool.entries.countP _, s'.opsOf u, s'.sys.readyOrder.count u) = _
        rw [ends.awaiting, ends.entries, ends.ready]
        rfl
      · rw [at_rest]
        split <;> simp [Ne.symm same]
  · change g ∈ s'.pool.entries at hg
    rw [ends.entries] at hg
    have elsewhere : g.transaction ≠ t := s.not_held_of_places held g hg
    rw [State.ringOf, State.txn_setTxn_ne s' elsewhere, ends.txn]
    show _ ∧ ((s'.ring g.ring).state = .active ∨ _)
    rw [ends.ring]
    exact h.holds g hg
  · change o ∈ s'.mem.queue at ho
    rw [ends.queue] at ho
    obtain ⟨y, hy, ring, one⟩ := h.passing o ho cls
    have elsewhere : o.transaction ≠ t := by
      intro same
      rw [same, txn] at hy
      cases hy
      have queued : 0 < s.mem.queue.countP fun q => q.transaction = t := List.countP_pos_iff.mpr ⟨o, ho, by simp [same]⟩
      have live := ends.live t
      rw [if_pos rfl] at live
      change s.mem.queue.countP _ + _ = _ at ops
      omega
    rw [State.txn_setTxn_ne s' elsewhere, ends.txn]
    exact ⟨y, hy, ring, one⟩

end

end Sys2Proof.Machine
end

section
/-! The ring engine's events keep the part sound: the level, the hold lists, landings and consumptions, the ends of a
drain and of a clear. -/

namespace Sys2Proof.Machine

section
variable {s s' : State} {l : Lapse}

/-! ## The level, the hold list, the end of a drain -/

theorem State.SoundUpTo.raise (h : s.SoundUpTo l) (r : RingNo) (k : EventKind) (p : Option Nat) (c : EventCount) :
    (s.raise r k p c).SoundUpTo l := h.of_eq

theorem State.SoundUpTo.offer (h : s.SoundUpTo l) (k : EventKind) (o : Option RingNo) (line : BitVec 2)
    (p : Option Nat) (c : EventCount) : (s.offer k o line p c).SoundUpTo l := h.of_eq

/-- An evaluation of the level brings the side into agreement (R122). -/
theorem State.SoundUpTo.evaluateLevel {r : RingNo} (h : s.SoundUpTo { l with level := some r }) :
    (s.evaluateLevel r).SoundUpTo { l with level := none } := by
  have evaluated : (s.setRing r { s.ring r with side := (s.ring r).evaluatedSide }).SoundUpTo
      { l with level := some r } :=
    h.setRing_same rfl rfl fun _ order => ⟨order.of_same {} order.marks, fun _ => Or.inl rfl⟩
  have settled := evaluated.level_settled rfl fun on => by
    rw [State.ring_setRing_self] at on ⊢
    exact Ring.evaluatedSide_agrees (h.streams r on).1.marks
  exact settled.of_eq (ring := fun q => by rw [State.ring_evaluateLevel, State.ring_setRing])

/-- A ring not OFF goes to another such state. -/
theorem State.SoundUpTo.setRing_state (h : s.SoundUpTo l) {r : RingNo} {y : Ring} (same : (s.ring r).SameStream y)
    (active : y.active = (s.ring r).active) (side : y.side = (s.ring r).side) (on : (s.ring r).state ≠ .off)
    (on' : y.state ≠ .off) (held : (s.ring r).state = .active → y.state = .active ∨ l.held = some r)
    (clearing : y.state = .clearing → (s.ring r).state = .clearing ∨ l.clear = some r)
    (cleared : (s.ring r).state = .clearing → y.state = .clearing) : (s.setRing r y).SoundUpTo l :=
  h.setRing
    { on := fun _ => ⟨on', same.structural⟩
      active := held
      clearing := clearing
      cleared := fun c => Or.inr (Or.inr (cleared (c.resolve_left on)))
      streams := fun _ => by
        obtain ⟨order, agrees⟩ := h.streams r on
        exact ⟨order.of_same same (active ▸ order.marks),
          agrees.imp_right fun agrees => agrees.of_same same.structural same.D same.F active side⟩ }

/-- The drain-end test (R31). -/
theorem State.SoundUpTo.testDrainEnd (h : s.SoundUpTo l) (r : RingNo) : (s.testDrainEnd r).SoundUpTo l := by
  unfold State.testDrainEnd
  dsimp only
  split
  · rename_i ends
    have paused := h.setRing_state (y := { s.ring r with state := .paused }) {} rfl rfl (by simp [ends.1]) (by simp)
      (by simp [ends.1]) (by simp) (by simp [ends.1])
    exact paused.raise _ _ _ _
  · exact h

/-- A ring's whole hold list is answered (R103). -/
theorem State.SoundUpTo.answerHoldList {r : RingNo} (h : s.SoundUpTo { l with held := some r })
    (f : HoldEntry → Status) : (s.answerHoldList r f).SoundUpTo { l with held := none } := by
  have answered : (s.answerHoldList r f).SoundUpTo { l with held := some r } := h.answerHeld _ f
  refine answered.held_settled rfl fun g hg => ?_
  rw [State.answerHoldList_entries] at hg
  simpa using (List.mem_filter.mp hg).2

/-- A ring not OFF and not CLEARING enters HALTED (R33, R35, R105). -/
theorem State.SoundUpTo.enterHalted (h : s.SoundUpTo l) (no_held : l.held = none) {r : RingNo}
    (on : (s.ring r).state ≠ .off) (moves : (s.ring r).state ≠ .clearing) :
    (s.enterHalted r).SoundUpTo { l with held := none } := by
  have granted : s.SoundUpTo { l with held := some r } := h.grant (held := by simp [no_held])
  have halted := granted.setRing_state (y := { s.ring r with state := .halted }) {} rfl rfl on (by simp)
    (fun _ => Or.inr rfl) (by simp) (fun c => absurd c moves)
  unfold State.enterHalted
  exact (halted.answerHoldList _).raise _ _ _ _

/-! ## Landings -/

theorem Ring.attemptApply_structural (x : Ring) : x.attemptApply.structural = x.structural := by
  rw [Ring.attemptApply_eq]

/-- The end of an absorption: the level is evaluated where F moved (R24, R64). -/
theorem State.SoundUpTo.finishWriteEnd {r : RingNo} {f0 : Nat} (h : s.SoundUpTo { l with level := some r })
    (still : (s.ring r).F = f0 → (s.ring r).state ≠ .off → (s.ring r).SideAgrees) :
    (s.finishWriteEnd r f0).SoundUpTo { l with level := none } := by
  unfold State.finishWriteEnd
  extract_lets x moved boundary applied s1 s2 s3 s4
  have h1 : s1.SoundUpTo { l with level := some r } := by
    simp only [s1]
    split
    · exact h.setRing_same x.attemptApply_state x.attemptApply_structural fun _ order =>
        ⟨order.attemptApply, fun _ => Or.inl rfl⟩
    · exact h
  have h2 : s2.SoundUpTo { l with level := none } := by
    simp only [s2]
    split
    · exact h1.evaluateLevel
    · rename_i stands
      have here : x.F = f0 := by simpa [moved] using stands
      have unchanged : s1 = s := by simp [s1, boundary, stands]
      rw [unchanged]
      exact h.level_settled rfl (still here)
  have h3 : s3.SoundUpTo { l with level := none } := by
    simp only [s3]
    split
    · exact h2.releaseScan _ _
    · exact h2
  have h4 : s4.SoundUpTo { l with level := none } := by
    simp only [s4]
    split
    · exact h3.raise _ _ _ _
    · exact h3
  exact h4.testDrainEnd r

/-- The fill side absorbs, in ACTIVE or DRAINING (R62 to R64, R112, R116). -/
theorem State.SoundUpTo.absorbWrites (h : s.SoundUpTo l) (no_level : l.level = none) (no_held : l.held = none)
    {r : RingNo} (on : (s.ring r).state = .active ∨ (s.ring r).state = .draining) :
    (s.absorbWrites r).SoundUpTo { l with level := none, held := none } := by
  have not_off : (s.ring r).state ≠ .off := by rcases on with on | on <;> simp [on]
  have not_clearing : (s.ring r).state ≠ .clearing := by rcases on with on | on <;> simp [on]
  unfold State.absorbWrites
  extract_lets x a s1 s2 s3
  have granted : s.SoundUpTo { l with level := some r, held := none } :=
    h.grant (level := by simp [no_level]) (held := by simp [no_held])
  have h1 : s1.SoundUpTo { l with level := some r, held := none } :=
    granted.setRing_same rfl rfl fun _ order => ⟨order.absorbFill rfl, fun _ => Or.inl rfl⟩
  have rings : s2.rings = s1.rings := by simp [s2, foldl_unchanged (p := State.rings)]
  have ring2 : s2.ring r = { x with fill := a.fill, F := a.F, poison := a.poison } := by
    rw [State.ring_congr rings]
    exact State.ring_setRing_self s r _
  have h2 : s2.SoundUpTo { l with level := some r, held := none } :=
    foldl_keeps _ (fun s => s.SoundUpTo _) _ (fun _ _ _ hs => hs.raise _ _ _ _) _ h1
  have h3 : s3.SoundUpTo { l with level := some r, held := none } := by
    simp only [s3]
    split
    · exact h2.enterHalted rfl (by simpa [ring2] using not_off) (by simpa [ring2] using not_clearing)
    · exact h2
  have ring3 : s3.ring r = { x with
      fill := a.fill, F := a.F, poison := a.poison, state := if a.refused then .halted else x.state } := by
    simp only [s3]
    split
    · rw [State.ring_enterHalted, if_pos rfl, ring2]
    · exact ring2
  refine State.SoundUpTo.finishWriteEnd (l := { l with held := none }) h3 fun stands _ => ?_
  have agrees := (h.streams r not_off).2.resolve_left (by simp [no_level])
  rw [ring3] at stands ⊢
  exact agrees.of_same rfl rfl stands rfl rfl

/-- The drain side absorbs (R86). -/
theorem State.SoundUpTo.absorbReads (h : s.SoundUpTo l) (no_level : l.level = none) (r : RingNo) :
    (s.absorbReads r).SoundUpTo { l with level := none } := by
  unfold State.absorbReads
  extract_lets x a s1
  have granted : s.SoundUpTo { l with level := some r } := h.grant (level := by simp [no_level])
  have h1 : s1.SoundUpTo { l with level := some r } :=
    granted.setRing_same rfl rfl fun _ order => ⟨order.absorbDrain rfl, fun _ => Or.inl rfl⟩
  split
  · rename_i stands
    refine h1.level_settled rfl fun on => ?_
    simp only [s1, State.ring_setRing_self] at on ⊢
    exact ((h.streams r on).2.resolve_left (by simp [no_level])).of_same rfl stands rfl rfl rfl
  · have h2 := h1.evaluateLevel
    split
    · exact h2.releaseScan _ _
    · exact h2

/-- The end of a ring write: its request, in passage, is answered, and the fill side absorbs where it may (R60). -/
theorem State.SoundUpTo.endWrite {u : TxnNo} (h : s.SoundUpTo l) (passage : l.txn = some u) (no_level : l.level = none)
    (no_held : l.held = none) (r : RingNo) (ok : Bool) :
    (s.endWrite r u ok).SoundUpTo { l with txn := none, level := none, held := none } := by
  unfold State.endWrite
  extract_lets x fill s1 s2
  have h1 : s1.SoundUpTo l := by
    refine h.setRing_same rfl rfl fun _ order =>
      ⟨order.setFill ?_, Or.imp_right fun agrees => agrees.of_same rfl rfl rfl rfl rfl⟩
    simp only [fill]
    split
    · exact InOrder.merge (by rw [turnEntry_extents]; exact order.fill)
    · rw [turnEntry_extents]
      exact order.fill
  have h2 : s2.SoundUpTo { l with txn := none } := h1.answer passage _ _
  split
  · rename_i on
    have ring2 : (s2.ring r).state = x.state := by simp [s2, s1]
    rw [← ring2] at on
    exact h2.absorbWrites no_level no_held on
  · exact h2.grant (level := by simp [no_level]) (held := by simp [no_held])

/-- A drain scoreboard is replaced by one in order. -/
theorem State.SoundUpTo.setDrain (h : s.SoundUpTo l) {r : RingNo} {x : Ring} (here : s.ring r = x)
    {entries : List ScoreEntry}
    (inOrder : x.StreamOrdered → InOrder x.A x.D x.F (entries.map ScoreEntry.extent)) :
    (s.setRing r { x with drain := entries }).SoundUpTo l := by
  subst here
  exact h.setRing_same rfl rfl fun _ order =>
    ⟨order.setDrain (inOrder order), Or.imp_right fun agrees => agrees.of_same rfl rfl rfl rfl rfl⟩

/-- The end of a ring read: its request, in passage, is answered, its entry lands or is removed, and the drain side
absorbs where it may (R83, R84, R110). -/
theorem State.SoundUpTo.endRead {u : TxnNo} (h : s.SoundUpTo l) (passage : l.txn = some u) (no_level : l.level = none)
    (r : RingNo) (ok : Bool) (data : List Byte) :
    (s.endRead r u ok data).SoundUpTo { l with txn := none, level := none } := by
  have granted : s.SoundUpTo { l with level := none } := h.grant (level := by simp [no_level])
  unfold State.endRead
  extract_lets x s1 s2 s3
  split
  · have h1 : s1.SoundUpTo { l with txn := none, level := none } := granted.answer passage _ _
    split
    · have h2 : s2.SoundUpTo { l with txn := none, level := none } :=
        h1.setDrain (by simp [s1, x]) fun order => InOrder.merge (by rw [turnEntry_extents]; exact order.drain)
      split
      · exact h2.absorbReads rfl r
      · exact h2
    · exact h1
  · have h3 : s3.SoundUpTo { l with txn := none, level := none } := granted.answer passage _ _
    exact h3.setDrain (by simp [s3, x]) fun order => order.drain.sublist (List.filter_sublist.map _)

/-! ## The end of a clear -/

theorem Txn.markCleared_facts (x : Txn) (r : RingNo) : (x.markCleared r).stage = x.stage
    ∧ (x.markCleared r).status = x.status ∧ (x.markCleared r).outstanding = x.outstanding
    ∧ (x.markCleared r).parts = x.parts ∧ (x.markCleared r).ring = x.ring ∧ (x.markCleared r).range = x.range := by
  unfold Txn.markCleared
  split <;> exact ⟨rfl, rfl, rfl, rfl, rfl, rfl⟩

theorem State.ringOf_markCleared (s : State) (r : RingNo) (t : TxnNo) : (s.markCleared r).ringOf t = s.ringOf t := by
  rw [State.ringOf, State.txn_markCleared]
  cases txn : s.txn t with
  | none => simp [State.ringOf, txn]
  | some x => simp [State.ringOf, txn, (x.markCleared_facts r).2.2.2.2.1]

/-- A ring in OFF holds no request's place: with none of its requests held and those that wait for it marked, a ring
may go OFF (R37). -/
theorem State.SoundUpTo.ring_off (h : s.SoundUpTo l) (no_held : l.held = none) {r : RingNo}
    {y : Ring} (off : y.state = .off) (clearing : (s.ring r).state = .clearing) :
    ((s.setRing r y).markCleared r).SoundUpTo l := by
  have unheld : ∀ g ∈ s.pool.entries, g.ring ≠ r := by
    intro g hg here
    have := (h.holds g hg).2.resolve_right (by simp [no_held])
    rw [here, clearing] at this
    cases this
  have txn : ∀ t, ((s.setRing r y).markCleared r).txn t = (s.txn t).map fun x => x.markCleared r :=
    fun t => State.txn_markCleared _ r t
  have ringOf : ∀ t, ((s.setRing r y).markCleared r).ringOf t = s.ringOf t := State.ringOf_markCleared _ r
  have ring : ∀ q, ((s.setRing r y).markCleared r).ring q = if q = r then y else s.ring q := fun q => by
    rw [State.ring_markCleared, State.ring_setRing]
  refine ⟨fun t => ?_, fun t ht x' hx' => ?_, fun g hg => ?_, fun o ho cls => ?_, h.ids, fun q hq => ?_,
    fun part q => ?_, fun q hq => ?_⟩
  · show s.placesOf t = _
    rw [h.places, State.placesDue, State.placesDue, txn]
    cases s.txn t with
    | none => rfl
    | some x => simp only [Option.map_some, Txn.places, (x.markCleared_facts r).1, (x.markCleared_facts r).2.2.1]
  · rw [txn] at hx'
    obtain ⟨x, hx, rfl⟩ := Option.mem_map.mp hx'
    have right := h.requests t ht x hx
    obtain ⟨stage, status, outstanding, parts, same, range⟩ := x.markCleared_facts r
    refine ⟨by rw [stage, status]; exact right.status, by rw [stage, outstanding]; exact right.outstanding, fun w => ?_⟩
    rw [stage] at w
    obtain ⟨two, q, hq, e, he, fits⟩ := right.waits w
    refine ⟨by rw [parts]; exact two, q, by rw [same]; exact hq, e, by rw [range]; exact he, fun fresh => ?_⟩
    have elsewhere : q ≠ r := by
      rintro rfl
      rcases w with accepted | held
      · simp [Txn.markCleared, show x.ring = some q from hq, accepted] at fresh
      · have placed := h.places t
        rw [State.placesDue, if_neg ht, show s.txn t = some x from hx] at placed
        have one : 0 < (s.placesOf t).2.1 := by simp [placed, Txn.places, held]
        obtain ⟨g, hg, mine⟩ := List.countP_pos_iff.mp one
        have place := (h.holds g hg).1
        rw [of_decide_eq_true mine, State.ringOf, show s.txn t = some x from hx] at place
        exact unheld g hg (Option.some_injective _ (place.symm.trans hq))
    rw [ring, if_neg elsewhere]
    refine fits ?_
    unfold Txn.markCleared at fresh
    split at fresh
    · cases fresh
    · exact fresh
  · rw [ringOf, ring, if_neg (unheld g hg)]
    exact h.holds g hg
  · obtain ⟨x, hx, none_, one⟩ := h.passing o ho cls
    obtain ⟨-, -, outstanding, -, same, -⟩ := x.markCleared_facts r
    exact ⟨x.markCleared r, by rw [txn, show s.txn _ = some x from hx]; rfl, same.trans none_, outstanding.trans one⟩
  · rw [ring] at hq
    split at hq
    · rw [off] at hq
      cases hq
    · have same := State.ringBusy_congr (s := s) (t := (s.setRing r y).markCleared r) q rfl ringOf
      exact (h.clearing q hq).imp_right same.trans
  · rw [ring]
    split
    · exact Or.inr (Or.inl off)
    · exact h.resetting part q
  · rw [ring] at hq ⊢
    split at hq
    · exact absurd off hq
    · rename_i elsewhere
      rw [if_neg elsewhere]
      exact h.streams q hq

/-- The clear-end test of a CLEARING ring (R37): with no operation left it goes OFF, and the requests that wait for it
are marked. -/
theorem State.SoundUpTo.testClearEnd {r : RingNo} (h : s.SoundUpTo { l with clear := some r })
    (no_held : l.held = none) : (s.testClearEnd r).SoundUpTo { l with clear := none } := by
  unfold State.testClearEnd
  split
  · rename_i ends
    have off : (s.ring r).endClear.state = .off := rfl
    refine State.SoundUpTo.raise ?_ _ _ _ _
    refine (h.ring_off no_held off ends.1).clear_settled rfl fun clearing => ?_
    rw [State.ring_markCleared, State.ring_setRing_self, off] at clearing
    cases clearing
  · rename_i stays
    refine h.clear_settled rfl fun clearing => ?_
    rw [not_and, Bool.not_eq_false] at stays
    exact stays clearing

/-- CLEAR, as it is taken in a ring not OFF (R36). -/
theorem State.SoundUpTo.beginClear (h : s.SoundUpTo l) (no_clear : l.clear = none)
    (no_held : l.held = none) {r : RingNo} (on : (s.ring r).state ≠ .off) : (s.beginClear r).SoundUpTo l := by
  have granted : s.SoundUpTo { l with clear := some r, held := some r } :=
    h.grant (clear := by simp [no_clear]) (held := by simp [no_held])
  unfold State.beginClear
  extract_lets s1 x s2
  have h1 : s1.SoundUpTo { l with clear := some r, held := some r } := granted.answerHeld _ _
  have ring1 : s1.ring r = s.ring r := by simp [s1]
  have h2 : s2.SoundUpTo { l with clear := some r, held := some r } :=
    h1.setRing_state {} rfl rfl (ring1 ▸ on) (by simp) (fun _ => Or.inr rfl) (fun _ => Or.inr rfl) (fun _ => rfl)
  have h3 : s2.SoundUpTo { l with clear := some r, held := none } := by
    refine h2.held_settled rfl fun g hg => ?_
    simp only [s2, s1, State.setRing_pool, State.answerHoldList_entries] at hg
    simpa using (List.mem_filter.mp hg).2
  have h4 := State.SoundUpTo.testClearEnd (l := { l with held := none }) h3 rfl
  exact h4.grant

/-! ## The completion of a part reset -/

/-- The completion test of the part reset (R172): with no request and no live operation left, no ring is CLEARING, and
the rings that are reset are OFF. -/
theorem State.SoundUpTo.testResetCompletion (h : s.SoundUpTo {}) : s.testResetCompletion.SoundUpTo {} := by
  unfold State.testResetCompletion
  split
  · rename_i complete
    simp only [State.resetMayComplete, Bool.and_eq_true, beq_iff_eq, List.isEmpty_iff] at complete
    obtain ⟨⟨⟨resetting, empty⟩, queue⟩, orphans⟩ := complete
    have free : ∀ t, s.txn t = none := by
      intro t
      have := List.all_eq_true.mp empty (s.txn t) (by simp [State.txn])
      simpa using this
    have idle : ∀ r, s.ringBusy r = false := by
      intro r
      rw [State.ringBusy, queue, List.any_nil, Bool.false_or, List.any_eq_false]
      intro o ho
      have := of_decide_eq_true (List.all_eq_true.mp orphans o ho)
      simp [this]
    have off : ∀ r, (s.ring r).state = .off := by
      intro r
      rcases (h.resetting resetting r).resolve_left (by simp) with off | clearing
      · exact off
      · rcases h.clearing r clearing with lapse | busy
        · cases lapse
        · rw [idle r] at busy
          cases busy
    refine State.SoundUpTo.of_eq (s := { s with rings := mapPlaces Ring.partReset s.rings, part := .running }) ?_
    have off' : ∀ r, (State.ring { s with rings := mapPlaces Ring.partReset s.rings, part := .running } r).state
        = .off := fun r => by
      rw [State.ring, mapPlaces_get]
      exact off r
    refine ⟨h.places, fun t _ x hx => ?_, fun g hg => ?_, fun o ho => ?_, h.ids, fun r hr => ?_, fun part => ?_,
      fun r on => absurd (off' r) on⟩
    · change x ∈ s.txn t at hx
      rw [free] at hx
      cases hx
    · have := (h.holds g hg).1
      rw [State.ringOf, free] at this
      cases this
    · change o ∈ s.mem.queue at ho
      rw [queue] at ho
      cases ho
    · rw [off'] at hr
      cases hr
    · cases part
  · exact h

end

end Sys2Proof.Machine
end

section
/-! Admissions, re-admissions and the ends of operations keep the part sound. -/

namespace Sys2Proof.Machine

section
variable {s s' : State} {l : Lapse} {u : TxnNo}

/-! ## The report of an end -/

/-- The report of an operation's end (R13, R160): the last one ends the request; the clear-end test of its ring and the
completion test of the part reset follow. -/
theorem State.SoundUpTo.reportEnd (h : s.SoundUpTo {}) {t : TxnNo} (ends : s.Ends s' t) (p : PartNo) (e : OpEnd) :
    (s'.reportEnd t p e).SoundUpTo {} := by
  have pos := ends.opsOf t
  rw [if_pos rfl] at pos
  obtain ⟨x, txn, -⟩ := h.ops_placed (u := t) (by omega)
  have ended := h.endPart rfl rfl ends txn p e
  have txn' : s'.txn t = some x := (ends.txn t).trans txn
  cases ring : x.ring with
  | none =>
    rw [State.reportEnd_passThrough s' txn' ring]
    rw [ring] at ended
    refine State.SoundUpTo.testResetCompletion ?_
    split
    · rename_i last
      rw [if_pos last] at ended
      unfold State.endPassThrough
      have answered : ∀ a d, ((s'.setTxn t (some (x.endPart p e))).answer t a d).SoundUpTo {} := ended.answer rfl
      split
      · exact answered _ _
      · dsimp only
        split
        · exact (answered _ _).offer _ _ _ _ _
        · exact answered _ _
    · rename_i more
      rw [if_neg more] at ended
      exact ended
  | some r =>
    rw [State.reportEnd_ring s' txn' ring]
    rw [ring] at ended
    refine State.SoundUpTo.testResetCompletion (State.SoundUpTo.testClearEnd (l := {}) ?_ rfl)
    split
    · rename_i last
      rw [if_pos last] at ended
      unfold State.endRingRequest
      split
      · exact ended.endWrite rfl rfl rfl r _
      · exact ended.endRead rfl rfl r _ _
    · rename_i more
      rw [if_neg more] at ended
      exact ended

/-! ## Admissions -/

/-- What acceptance and the table say of a ring request that comes to its admission (R140, R141). -/
structure State.Admissible (s : State) (x : Txn) (r : RingNo) (e : Extent) : Prop where
  status : x.status = none
  parts : x.parts.length = 1 ∨ x.parts.length = 2
  ring : x.ring = some r
  range : x.range = some e
  fresh : x.cleared = false → (s.ring r).state ≠ .off ∧ (s.ring r).Fits e

/-- A request that waits for its admission, or is held, is admissible. -/
theorem State.RequestRight.admissible {x : Txn} {r : RingNo} {e : Extent} (right : s.RequestRight x)
    (stage : x.stage = .accepted ∨ x.stage = .held) (ring : x.ring = some r) (range : x.range = some e) :
    s.Admissible x r e := by
  obtain ⟨parts, q, hq, k, hk, fresh⟩ := right.waits stage
  obtain rfl : q = r := Option.some_injective _ (hq.symm.trans ring)
  obtain rfl : k = e := Option.some_injective _ (hk.symm.trans range)
  refine ⟨?_, parts, ring, range, fresh⟩
  by_contra formed
  have ready := right.status.mp formed
  rcases stage with stage | stage <;> rw [stage] at ready <;> cases ready

theorem State.Admissible.of_ring {x : Txn} {r : RingNo} {e : Extent} (h : s.Admissible x r e)
    (ring : ∀ q, s'.ring q = s.ring q) : s'.Admissible x r e :=
  ⟨h.status, h.parts, h.ring, h.range, by rw [ring]; exact h.fresh⟩

/-- An overtake leaves the stream in order from its new D, and the level evaluated (R56 to R59). -/
theorem State.SoundUpTo.overtake (h : s.SoundUpTo l) (no_level : l.level = none) {r : RingNo} {e : Extent}
    (fits : (s.ring r).Fits e) (admits : (s.ring r).AdmitsWrite e)
    (beyond : (s.ring r).BeyondRoom e.stop) :
    ((s.setRing r ((s.ring r).placeWrite u e)).overtake r e.stop).SoundUpTo { l with level := none } := by
  have granted : s.SoundUpTo { l with level := some r } := h.grant (level := by simp [no_level])
  unfold State.overtake
  extract_lets x d1 a s1 stale s2 y s3 s4 s5
  have h1 : s1.SoundUpTo { l with level := some r } := by
    obtain ⟨state, structural, -, -, -, -, drain⟩ := (s.ring r).placeWrite_same u e
    have placed : x = (s.ring r).placeWrite u e := State.ring_setRing_self _ _ _
    have A : x.A = (s.ring r).A := by rw [placed, Ring.A, structural, Ring.A]
    have C : x.C = (s.ring r).C := by rw [placed, Ring.C, structural, Ring.C]
    simp only [s1, a, d1, State.setRing_setRing, A, C]
    rw [placed, drain]
    exact granted.setRing_same state structural fun _ order =>
      ⟨(order.overtaken fits admits beyond).absorbDrain rfl, fun _ => Or.inl rfl⟩
  have h2 : s2.SoundUpTo { l with level := some r } := h1.answerHeld _ _
  have h3 : s3.SoundUpTo { l with level := some r } := h2.setRing_stream rfl {} rfl rfl
  have h4 : s4.SoundUpTo { l with level := some r } := h3.raise _ _ _ _
  exact h4.evaluateLevel.releaseScan _ _

/-- An admitted write is placed, overtakes where it must, and joins the issue queue (R54 to R59). -/
theorem State.SoundUpTo.admitWrite (h : s.SoundUpTo l) (passage : l.txn = some u) (no_level : l.level = none) {x : Txn}
    {r : RingNo} {e : Extent} (admissible : s.Admissible x r e) (fresh : x.cleared = false)
    (admits : (s.ring r).AdmitsWrite e) :
    (s.admitWrite u x r e).SoundUpTo { l with txn := none, level := none } := by
  obtain ⟨-, fits⟩ := admissible.fresh fresh
  unfold State.admitWrite
  extract_lets overtakes s1 s2
  have h2 : s2.SoundUpTo { l with level := none } := by
    simp only [s2]
    split
    · rename_i due
      simp only [overtakes, Bool.and_eq_true, decide_eq_true_eq] at due
      exact h.overtake no_level fits admits due.1
    · rename_i not_due
      obtain ⟨state, structural, active, side, D, F, -⟩ := (s.ring r).placeWrite_same u e
      have room : ¬ (s.ring r).BeyondRoom e.stop := fun beyond =>
        not_due (by simp [overtakes, beyond, admits.room beyond])
      have granted : s.SoundUpTo { l with level := none } := h.grant (level := by simp [no_level])
      exact granted.setRing_same state structural fun _ order =>
        ⟨order.placeWrite fits admits room, Or.imp_right fun agrees => agrees.of_same structural D F active side⟩
  exact h2.enqueueParts passage admissible.status admissible.parts (by simp)

/-- A ring write's admission, fresh or repeated (R3, R45 to R59). -/
theorem State.SoundUpTo.takeWrite (h : s.SoundUpTo l) (passage : l.txn = some u) (no_level : l.level = none) {x : Txn}
    {r : RingNo} {e : Extent} (admissible : s.Admissible x r e) :
    (s.takeWrite u x r e).SoundUpTo { l with txn := none, level := none } := by
  have granted : s.SoundUpTo { l with level := none } := h.grant (level := by simp [no_level])
  have answered : ∀ a, (s.answer u a).SoundUpTo { l with txn := none, level := none } := fun a =>
    granted.answer passage a _
  unfold State.takeWrite
  split
  · exact answered _
  rename_i fresh
  rw [Bool.not_eq_true] at fresh
  have verdict := judgeWrite_says (s.ring r) x.master e
  split <;> rename_i outcome <;> rw [outcome] at verdict
  · exact (granted.setTxn passage _).answer passage _ _
  · have counted := granted.setRing_stream (r := r)
      (y := { s.ring r with discardCount := countUp (s.ring r).discardCount }) rfl {} rfl rfl
    exact counted.answer passage _ _
  · exact answered _
  · exact granted.askHold passage admissible.status admissible.parts admissible.ring admissible.range
      (admissible.fresh fresh).2 verdict
  · exact h.admitWrite passage no_level admissible fresh verdict

/-- A read that is answered POISONED consumes its consume part (R81). -/
theorem State.SoundUpTo.poisonedRead (h : s.SoundUpTo l) (passage : l.txn = some u) (no_level : l.level = none)
    {r : RingNo} {cls : RequestClass} {e : Extent} (fits : (s.ring r).Fits e) (admits : (s.ring r).AdmitsRead cls e) :
    (s.poisonedRead u r (consumePart (s.ring r) cls e)).SoundUpTo { l with txn := none, level := none } := by
  have granted : s.SoundUpTo { l with level := none } := h.grant (level := by simp [no_level])
  have answered : (s.answer u .poisoned).SoundUpTo { l with txn := none, level := none } := granted.answer passage _ _
  unfold State.poisonedRead
  extract_lets s1
  cases part : consumePart (s.ring r) cls e with
  | none => exact answered
  | some c =>
    have ring1 : s1.ring r = s.ring r := State.ring_answer _ _ _ _ _
    refine State.SoundUpTo.absorbReads (l := { l with txn := none, level := none }) ?_ rfl r
    rw [ring1]
    refine answered.setDrain ring1 fun order => InOrder.merge ?_
    have placed := order.placeRead (u := u) fits admits .landed
    rw [part] at placed
    exact placed.drain

/-- A placed read changes the drain scoreboard alone (R82). -/
theorem Ring.placeRead_same (x : Ring) (u : TxnNo) (part : Option Extent) (state : EntryState) :
    (x.placeRead u part state).state = x.state ∧ (x.placeRead u part state).structural = x.structural
      ∧ (x.placeRead u part state).active = x.active ∧ (x.placeRead u part state).side = x.side
      ∧ (x.placeRead u part state).D = x.D ∧ (x.placeRead u part state).F = x.F := by
  rw [Ring.placeRead_eq]
  exact ⟨rfl, rfl, rfl, rfl, rfl, rfl⟩

/-- A ring read's admission, fresh or repeated (R3, R69 to R82). -/
theorem State.SoundUpTo.takeRead (h : s.SoundUpTo l) (passage : l.txn = some u) (no_level : l.level = none) {x : Txn}
    {r : RingNo} {e : Extent} (admissible : s.Admissible x r e) :
    (s.takeRead u x r e).SoundUpTo { l with txn := none, level := none } := by
  have granted : s.SoundUpTo { l with level := none } := h.grant (level := by simp [no_level])
  rw [State.takeRead_eq]
  generalize cls_eq : readClass (s.ring r) x.master = cls
  have classed := granted.setTxn passage (some { x with cls := some cls })
  split
  · exact classed.answer passage _ _
  rename_i fresh
  rw [Bool.not_eq_true] at fresh
  obtain ⟨on, fits⟩ := admissible.fresh fresh
  have verdict := judgeRead_says (s.ring r) cls e
  cases outcome : judgeRead (s.ring r) cls e with
  | answer status => exact classed.answer passage _ _
  | hold =>
    rw [outcome] at verdict
    exact classed.askHold passage admissible.status admissible.parts admissible.ring admissible.range fits verdict
  | poisoned =>
    rw [outcome] at verdict
    exact classed.poisonedRead passage rfl fits verdict
  | admitted =>
    rw [outcome] at verdict
    refine State.SoundUpTo.enqueueParts (l := { l with level := none }) ?_ passage admissible.status admissible.parts
      (by simp)
    obtain ⟨state, structural, active, side, D, F⟩ :=
      (s.ring r).placeRead_same u (consumePart (s.ring r) cls e) .inFlight
    exact classed.setRing_same state structural fun _ order =>
      ⟨order.placeRead fits verdict .inFlight, Or.imp_right fun agrees => agrees.of_same structural D F active side⟩

/-! ## The events of the ports -/

/-- WRITE_ADMISSION and READ_ADMISSION (R3). -/
theorem State.SoundUpTo.takeOldestAdmission (h : s.SoundUpTo {}) (direction : Direction)
    {take : State → TxnNo → Txn → RingNo → Extent → State}
    (keeps : ∀ {s : State} {u : TxnNo} {x : Txn} {r : RingNo} {e : Extent}, s.SoundUpTo { txn := some u } →
      s.Admissible x r e → (take s u x r e).SoundUpTo {}) :
    (s.takeOldestAdmission direction take).SoundUpTo {} := by
  unfold State.takeOldestAdmission
  cases awaiting : s.awaiting with
  | nil => exact h
  | cons u rest =>
    obtain ⟨x, txn, stage, -, right⟩ := h.awaiting_placed (u := u) (by simp [awaiting])
    have departed := h.depart_awaiting rfl awaiting
    dsimp only
    rw [txn]
    dsimp only
    split
    · rename_i r e ring range
      split
      · exact keeps departed ((right.admissible (Or.inl stage) ring range).of_ring fun _ => rfl)
      · exact h
    · exact h

/-- RE_ADMISSION (R99). -/
theorem State.SoundUpTo.readmitHead (h : s.SoundUpTo {}) : s.readmitHead.SoundUpTo {} := by
  unfold State.readmitHead
  split
  swap
  · exact h
  split
  · exact h
  split
  · exact h
  rename_i g found
  have mem := List.mem_of_find?_eq_some found
  obtain ⟨x, txn, stage, -, right⟩ := h.held_placed mem
  have departed := h.depart_held rfl mem
  have ring : s.ringOf g.transaction = some g.ring := (h.holds g mem).1
  rw [State.ringOf, txn] at ring
  obtain ⟨-, -, -, e, range, -⟩ := right.waits (Or.inr stage)
  have admissible := (right.admissible (Or.inr stage) ring range).of_ring
    (s' := { s with pool := s.pool.remove [g] }) fun _ => rfl
  unfold State.admitHeld
  rw [show State.txn { s with pool := s.pool.remove [g] } g.transaction = some x from txn]
  dsimp only
  rw [show x.range = some e from range]
  dsimp only
  split
  · exact departed.takeWrite rfl rfl
      ⟨admissible.status, admissible.parts, admissible.ring, rfl, admissible.fresh⟩
  · exact departed.takeRead rfl rfl admissible

/-- ISSUE_HEAD (R154). -/
theorem State.SoundUpTo.considerHead (h : s.SoundUpTo {}) : s.considerHead.SoundUpTo {} := by
  unfold State.considerHead
  split
  · exact h
  rename_i op rest queue
  split
  · rename_i refused
    exact ((h.depart_refused rfl queue refused.1).answer rfl _ _).testResetCompletion
  · split
    · exact h
    · rename_i id free
      split
      · exact h
      · exact h.issue queue free

/-- A response to an orphan frees its id and nothing else (R159). -/
theorem State.SoundUpTo.freeOrphan (h : s.SoundUpTo l) {o : Outstanding} (mem : o ∈ s.mem.outstanding)
    (orphan : o.condition = .orphan) : (s.freeOperation o.id).SoundUpTo l := by
  have ops : ∀ t, (s.freeOperation o.id).opsOf t = s.opsOf t := by
    intro t
    rw [State.opsOf, State.freeOperation_outstanding, List.countP_filter]
    refine congrArg _ (List.countP_congr fun k hk => ?_)
    by_cases same : k.id = o.id
    · have := List.inj_on_of_nodup_map h.ids hk mem same
      simp [this, orphan]
    · simp [same]
  refine h.move (fun _ => rfl) rfl (fun _ h => h) rfl rfl (fun t => Or.inl ⟨rfl, ?_, Iff.rfl⟩) h.holds h.passing
    (h.ids.sublist (List.filter_sublist.map _))
  rw [State.placesOf_eq, ops]
  rfl

/-- MEMORY_RESPONSE (R157). -/
theorem State.SoundUpTo.takeResponse (h : s.SoundUpTo {}) (id : BitVec 6) (status : MemoryStatus) (data : List Byte) :
    (s.takeResponse id status data).SoundUpTo {} := by
  unfold State.takeResponse
  split
  · exact h
  rename_i o found
  have mem := List.mem_of_find?_eq_some found
  split
  · rename_i orphan
    exact h.freeOrphan mem orphan
  · rename_i live
    split
    · have counted : (s.countMissing o.length data).SoundUpTo {} := h.of_eq
      exact counted.reportEnd (State.ends_freeOperation counted.ids (by simpa using mem) live) _ _
    · exact h.reportEnd (State.ends_freeOperation h.ids mem live) _ _
    · exact h.reportEnd (State.ends_freeOperation h.ids mem live) _ _

/-- Live operations expire one after another: each becomes an orphan and is reported failed (R158). -/
theorem State.SoundUpTo.expire (ops : List Outstanding) {s : State} (h : s.SoundUpTo {})
    (live : ∀ o ∈ ops, o ∈ s.mem.outstanding ∧ o.condition = .live) (ids : (ops.map Outstanding.id).Nodup) :
    (ops.foldl (fun s o => (s.orphan o.id).reportEnd o.transaction o.part .failed) s).SoundUpTo {} := by
  induction ops generalizing s with
  | nil => exact h
  | cons o rest ih =>
    rw [List.map_cons, List.nodup_cons] at ids
    obtain ⟨mem, here⟩ := live o List.mem_cons_self
    refine ih (h.reportEnd (State.ends_orphan h.ids mem here) _ _) (fun k hk => ?_) ids.2
    obtain ⟨old, still⟩ := live k (List.mem_cons_of_mem _ hk)
    refine ⟨?_, still⟩
    rw [State.reportEnd_mem]
    refine List.mem_map.mpr ⟨k, old, if_neg fun same => ids.1 ?_⟩
    exact same ▸ List.mem_map_of_mem hk

/-- RESPONSE_TIMEOUT (R158). -/
theorem State.SoundUpTo.takeTimeouts (h : s.SoundUpTo {}) : s.takeTimeouts.SoundUpTo {} := by
  refine State.SoundUpTo.expire _ h (fun o ho => ?_) (h.ids.sublist (List.filter_sublist.map _))
  obtain ⟨mem, due⟩ := List.mem_filter.mp ho
  simp only [Bool.and_eq_true, decide_eq_true_eq] at due
  exact ⟨mem, due.1⟩

/-- The stream range of a request of 1 to 256 bytes within a ring's aperture fits the ring (R10). -/
theorem Ring.StreamOrdered.fits_streamRange {x : Ring} (order : x.StreamOrdered) {address n : Nat}
    (within : x.HoldsInAperture address n) (pos : 0 < n) (le : n ≤ Config.longestRequest) :
    x.Fits (streamRange x.A (address - x.structural.apertureBase.toNat) n) := by
  obtain ⟨C, A⟩ := order.sizes
  obtain ⟨lo, hi⟩ := within
  unfold Config.longestRequest at le C
  have start : address - x.structural.apertureBase.toNat < x.A := by omega
  have length : (streamRange x.A (address - x.structural.apertureBase.toNat) n).length x.A = n :=
    distance_positionAfter start (by omega)
  refine ⟨start, positionAfter_lt (by omega) _ _, ?_, ?_⟩ <;> rw [length]
  · exact pos
  · exact le

/-- The classification of a request in passage finds it a place (R3 to R6, R142). -/
theorem State.SoundUpTo.decodeRequest (h : s.SoundUpTo l) (passage : l.txn = some u) {x : Txn}
    (stage : x.stage = .accepted) (status : x.status = none) (ring : x.ring = none) (pos : 0 < x.length)
    (le : x.length ≤ Config.longestRequest) : (s.decodeRequest u x).SoundUpTo { l with txn := none } := by
  unfold State.decodeRequest
  have spec := s.classify_spec x.address.toNat x.length
  split <;> rename_i cls <;> rw [cls] at spec
  · exact (h.setTxn passage _).answer passage _ _
  · exact (h.setTxn passage _).answer passage _ _
  · obtain ⟨-, on, within⟩ := spec
    exact h.await passage stage status (foldParts_length _ _ _) rfl rfl on
      ((h.streams _ on).1.fits_streamRange within pos le)
  · exact h.enqueueParts passage status (Or.inl rfl) fun _ => ⟨ring, rfl⟩

/-- REQUEST_ACCEPTANCE (R137, R139, R142). -/
theorem State.SoundUpTo.acceptRequest (h : s.SoundUpTo {}) (q : Request) : (s.acceptRequest q).SoundUpTo {} := by
  unfold State.acceptRequest
  split
  swap
  · exact h
  split
  swap
  · exact h
  rename_i t free
  unfold State.acceptInto
  extract_lets clash n x s1 s2
  have taken : s.SoundUpTo { txn := some t } := h.depart_free rfl (s.freeTxn_spec free)
  have counted : (s.countRequest q).SoundUpTo { txn := some t } := taken.of_eq
  have h1 : s1.SoundUpTo { txn := some t } := counted.setTxn rfl _
  have h2 : s2.SoundUpTo { txn := some t } := h1.of_fields
  split
  · exact h2.answer rfl _ _
  · rename_i valid
    simp only [not_or, not_lt] at valid
    obtain ⟨pos, le, -⟩ := valid
    exact h2.decodeRequest rfl rfl rfl rfl (Nat.pos_of_ne_zero pos) le

/-- RESPONSE_DELIVERY (R146). -/
theorem State.SoundUpTo.deliverHead (h : s.SoundUpTo {}) : s.deliverHead.SoundUpTo {} := by
  unfold State.deliverHead
  cases order : s.sys.readyOrder with
  | nil => exact h
  | cons u rest =>
    dsimp only
    obtain ⟨x, txn, -⟩ := h.ready_placed (u := u) (by simp [order])
    rw [txn]
    refine State.SoundUpTo.testResetCompletion ?_
    have departed := (h.depart_ready rfl order).setTxn rfl none
    exact (departed.free rfl (State.txn_setTxn_self _ _ _)).of_fields

end

end Sys2Proof.Machine
end

section
/-! The timebase and the management port keep the part sound, and so every step does: O21. -/

namespace Sys2Proof.Machine

section
variable {s s' : State} {l : Lapse}

/-! ## The timebase -/

theorem State.SoundUpTo.countLate (h : s.SoundUpTo l) (r : RingNo) : (s.countLate r).SoundUpTo l :=
  h.setRing_stream rfl {} rfl rfl

/-- EXPIRY (R100, R102). -/
theorem State.SoundUpTo.takeExpiries (h : s.SoundUpTo l) : s.takeExpiries.SoundUpTo l := by
  unfold State.takeExpiries
  exact foldl_keeps _ (fun s => s.SoundUpTo l) _ (fun s g _ hs => hs.countLate g.ring) _ (h.answerHeld _ _)

theorem State.SoundUpTo.settleAdvance (h : s.SoundUpTo {}) : s.settleAdvance.SoundUpTo {} := by
  unfold State.settleAdvance
  split
  · have counted : State.SoundUpTo { s with freeCount := s.freeCount + 1 } {} :=
      h.of_fields
    dsimp only
    split
    · exact counted.takeExpiries.takeTimeouts
    · exact counted.takeTimeouts.takeExpiries
  · exact h.takeExpiries.takeTimeouts

/-- TICK (R169). -/
theorem State.SoundUpTo.refclkCycles (n : Nat) {s : State} (h : s.SoundUpTo {}) :
    (s.refclkCycles n).SoundUpTo {} := by
  induction n generalizing s with
  | zero => exact h
  | succ n ih =>
    refine ih (s := s.refclkCycle) ?_
    unfold State.refclkCycle
    split
    · exact h.settleAdvance.of_fields
    · exact h.of_fields

/-! ## Commands -/

theorem State.SoundUpTo.setOutcome (h : s.SoundUpTo l) (r : RingNo) (o : CommandOutcome) :
    (s.setOutcome r o).SoundUpTo l := h.setRing_stream rfl {} rfl rfl

/-- What a ring not refused at ENABLE has of the sizes and the marks (R26). -/
theorem State.enableRefusal_none {r : RingNo} (passes : s.enableRefusal r = none) :
    (Config.longestRequest ≤ (s.ring r).C ∧ 4 * (s.ring r).C ≤ (s.ring r).A)
      ∧ (s.ring r).active.lowMark.toNat < (s.ring r).active.highMark.toNat := by
  unfold State.enableRefusal at passes
  dsimp only at passes
  split at passes
  · cases passes
  split at passes
  · cases passes
  rename_i sizes
  split at passes
  · cases passes
  split at passes
  · cases passes
  simp only [not_or, not_lt] at sizes
  obtain ⟨-, -, c, -, four⟩ := sizes
  refine ⟨⟨?_, four⟩, Live.marks_of_refusal passes⟩
  calc Config.longestRequest ≤ 2 ^ 12 := by decide
    _ ≤ (s.ring r).C := Nat.pow_le_pow_right (by decide) c

/-- ENABLE (R29), while the part is RUNNING. -/
theorem State.SoundUpTo.takeEnable (h : s.SoundUpTo {}) (running : s.part = .running) (r : RingNo) :
    (s.takeEnable r).SoundUpTo {} := by
  unfold State.takeEnable
  split
  swap
  · exact h.setOutcome r _
  rename_i off
  split
  · exact h.setOutcome r _
  rename_i passes
  obtain ⟨sizes, marks⟩ := State.enableRefusal_none passes
  have sound := Ring.streamSound_iff.mp (Ring.enabled_streamSound sizes marks)
  have granted : s.SoundUpTo { reset := [r] } := h.grant
  have enabled := granted.setRing (r := r) (y := (s.ring r).enabled)
    { on := fun on => absurd off on
      active := fun active => by rw [off] at active; cases active
      clearing := fun clearing => by cases clearing
      cleared := fun _ => Or.inl (List.mem_singleton_self r)
      streams := fun _ => ⟨sound.1, Or.inr sound.2⟩ }
  exact { enabled with resetting := fun part => by rw [State.setRing_part, running] at part; cases part }

/-- PAUSE (R30, R104). -/
theorem State.SoundUpTo.takePause (h : s.SoundUpTo {}) (r : RingNo) : (s.takePause r).SoundUpTo {} := by
  unfold State.takePause
  split
  · rename_i active
    have granted : s.SoundUpTo { held := some r } := h.grant
    have draining := granted.setRing_state (y := { s.ring r with state := .draining, outcome := .accepted }) {} rfl rfl
      (by simp [active]) (by simp) (fun _ => Or.inr rfl) (by simp) (by simp [active])
    exact (State.SoundUpTo.answerHoldList (l := {}) draining pauseAnswer).testDrainEnd r
  · exact h.setOutcome r _

/-- RESUME (R32). -/
theorem State.SoundUpTo.takeResume (h : s.SoundUpTo {}) (r : RingNo) : (s.takeResume r).SoundUpTo {} := by
  unfold State.takeResume
  split
  · rename_i paused
    exact h.setRing_state (y := { s.ring r with state := .active, outcome := .accepted }) {} rfl rfl (by simp [paused])
      (by simp) (by simp) (by simp) (by simp [paused])
  · exact h.setOutcome r _

/-- HALT (R33). -/
theorem State.SoundUpTo.takeHalt (h : s.SoundUpTo {}) (r : RingNo) : (s.takeHalt r).SoundUpTo {} := by
  have halts (on : (s.ring r).state ≠ .off) (moves : (s.ring r).state ≠ .clearing) :
      ((s.setOutcome r .accepted).enterHalted r).SoundUpTo {} := by
    refine (h.setOutcome r .accepted).enterHalted rfl ?_ ?_ <;> rw [State.setOutcome, State.ring_setRing_self]
    · exact on
    · exact moves
  unfold State.takeHalt
  cases state : (s.ring r).state with
  | active | draining | paused => exact halts (by simp [state]) (by simp [state])
  | off | halted | clearing => exact h.setOutcome r _

/-- CLEAR (R36). -/
theorem State.SoundUpTo.takeClear (h : s.SoundUpTo {}) (r : RingNo) : (s.takeClear r).SoundUpTo {} := by
  unfold State.takeClear
  cases state : (s.ring r).state with
  | active | draining | paused | halted => exact h.beginClear rfl rfl (by simp [state])
  | off | clearing => exact h.setOutcome r _

/-- An apply on command puts a set in force that passed the checks, and evaluates the level (R23, R38). -/
theorem State.SoundUpTo.applyOnCommand (h : s.SoundUpTo {}) {r : RingNo} (passes : (s.ring r).shadowRefusal = none) :
    (s.applyOnCommand r).SoundUpTo {} := by
  unfold State.applyOnCommand
  extract_lets x s1 s2 s3
  have granted : s.SoundUpTo { level := some r } := h.grant
  have h1 : s1.SoundUpTo { level := some r } :=
    granted.setRing_same rfl rfl fun _ order =>
      ⟨order.of_same {} (Live.marks_of_refusal (C := (s.ring r).C) passes), fun _ => Or.inl rfl⟩
  have h2 : s2.SoundUpTo {} := State.SoundUpTo.evaluateLevel (l := {}) h1
  have h3 : s3.SoundUpTo {} := by
    simp only [s3]
    split
    · exact h2.releaseScan _ _
    · exact h2
  exact h3.raise _ _ _ _

/-- APPLY_NOW (R38). -/
theorem State.SoundUpTo.takeApplyNow (h : s.SoundUpTo {}) (r : RingNo) : (s.takeApplyNow r).SoundUpTo {} := by
  unfold State.takeApplyNow
  dsimp only
  split
  · exact h.setOutcome r _
  split
  · exact h.setOutcome r _
  split
  · rename_i passes
    exact h.applyOnCommand passes
  · exact h.setOutcome r _

/-- A command is taken while the part is RUNNING (R28). -/
theorem State.SoundUpTo.takeCommand (h : s.SoundUpTo {}) (running : s.part = .running) (r : RingNo) (code : BitVec 4) :
    (s.takeCommand r code).SoundUpTo {} := by
  unfold State.takeCommand
  split
  · exact h.takeEnable running r
  · exact h.takePause r
  · exact h.takeResume r
  · exact h.takeHalt r
  · exact h.takeClear r
  · exact h.takeApplyNow r
  · exact h.setRing_stream rfl {} rfl rfl
  · exact h.setOutcome r _

/-! ## Descriptors -/

/-- Nothing is asked of a ring that is OFF and stays so. -/
theorem State.SoundUpTo.setRing_off (h : s.SoundUpTo l) {r : RingNo} {y : Ring} (off : (s.ring r).state = .off)
    (off' : y.state = .off) : (s.setRing r y).SoundUpTo l :=
  h.setRing
    { on := fun on => absurd off on
      active := fun active => by rw [off] at active; cases active
      clearing := fun clearing => by rw [off'] at clearing; cases clearing
      cleared := fun _ => Or.inr (Or.inl off')
      streams := fun on => absurd off' on }

theorem State.SoundUpTo.setLockedFlag (h : s.SoundUpTo l) : s.setLockedFlag.SoundUpTo l :=
  h.of_fields

/-- STRUCTURAL_WRITE (R20). -/
theorem State.SoundUpTo.writeStructural (h : s.SoundUpTo l) (r : RingNo) (reg : StructuralReg) (value : Word) :
    (s.writeStructural r reg value).SoundUpTo l := by
  unfold State.writeStructural
  dsimp only
  split
  · rename_i off
    exact h.setRing_off off off
  · exact h.setLockedFlag

/-- An apply that is refused leaves the active set as it was. -/
theorem Ring.attemptApply_active_of_refusal {x : Ring} (refused : x.shadowRefusal ≠ none) :
    x.attemptApply.active = x.active := by
  obtain ⟨reason, refused⟩ := Option.ne_none_iff_exists'.mp refused
  rw [Ring.attemptApply, refused]

/-- An immediate apply of a ring not OFF (R21, R23). -/
theorem State.SoundUpTo.applyImmediately (h : s.SoundUpTo {}) (r : RingNo) : (s.applyImmediately r).SoundUpTo {} := by
  unfold State.applyImmediately
  extract_lets x s1
  have state := (s.ring r).attemptApply_state
  have structural := (s.ring r).attemptApply_structural
  split
  · have granted : s.SoundUpTo { level := some r } := h.grant
    have h1 : s1.SoundUpTo { level := some r } :=
      granted.setRing_same state structural fun _ order => ⟨order.attemptApply, fun _ => Or.inl rfl⟩
    exact State.SoundUpTo.evaluateLevel (l := {}) h1
  · rename_i refused
    have active := Ring.attemptApply_active_of_refusal refused
    refine h.setRing_same state structural fun _ order => ⟨order.attemptApply, Or.imp_right fun agrees => ?_⟩
    refine agrees.of_same structural ?_ ?_ active ?_ <;> rw [Ring.attemptApply_eq]

/-- SHADOW_WRITE (R21). -/
theorem State.SoundUpTo.writeLive (h : s.SoundUpTo {}) (r : RingNo) (reg : LiveReg) (value : Word) :
    (s.writeLive r reg value).SoundUpTo {} := by
  unfold State.writeLive
  dsimp only
  split
  · rename_i off
    exact h.setRing_off off off
  · refine State.SoundUpTo.applyImmediately ?_ r
    exact h.setRing_stream rfl {} rfl rfl
  · refine State.SoundUpTo.applyImmediately ?_ r
    exact h.setRing_stream rfl {} rfl rfl
  all_goals exact h.setRing_stream rfl {} rfl rfl

theorem State.SoundUpTo.zeroFillCounter (h : s.SoundUpTo l) (r : RingNo) (c : FillCounter) :
    (s.zeroFillCounter r c).SoundUpTo l := by
  cases c with
  | discard | overtake => exact h.setRing_stream rfl {} rfl rfl

theorem State.SoundUpTo.whileRunning (h : s.SoundUpTo {}) (f : State → State)
    (keeps : s.part = .running → (f s).SoundUpTo {}) : (s.whileRunning f).SoundUpTo {} := by
  unfold State.whileRunning
  split
  · rename_i running
    exact keeps running
  · exact h.setLockedFlag

/-! ## The part reset -/

/-- A ring that is OFF or CLEARING needs no more clearing. -/
theorem State.SoundUpTo.reset_settled {r : RingNo} {rest : List RingNo} (h : s.SoundUpTo { l with reset := r :: rest })
    (cleared : (s.ring r).state = .off ∨ (s.ring r).state = .clearing) : s.SoundUpTo { l with reset := rest } :=
  { h with
    resetting := fun part q => by
      rcases h.resetting part q with listed | done
      · rcases List.mem_cons.mp listed with rfl | listed
        · exact Or.inr cleared
        · exact Or.inl listed
      · exact Or.inr done }

theorem State.beginClear_cleared (s : State) (r : RingNo) :
    ((s.beginClear r).ring r).state = .off ∨ ((s.beginClear r).ring r).state = .clearing := by
  rw [State.ring_beginClear, if_pos rfl]
  split
  · exact Or.inl rfl
  · exact Or.inr rfl

/-- One ring of a part reset (R171). -/
theorem State.SoundUpTo.clearForReset {r : RingNo} {rest : List RingNo} (h : s.SoundUpTo { reset := r :: rest }) :
    (s.clearForReset r).SoundUpTo { reset := rest } := by
  unfold State.clearForReset
  cases state : (s.ring r).state with
  | active | draining | paused | halted =>
    exact State.SoundUpTo.reset_settled (l := {}) (h.beginClear rfl rfl (by simp [state])) (s.beginClear_cleared r)
  | off => exact State.SoundUpTo.reset_settled (l := {}) h (Or.inl state)
  | clearing => exact State.SoundUpTo.reset_settled (l := {}) h (Or.inr state)

theorem State.SoundUpTo.clearAllForReset (rings : List RingNo) {s : State} (h : s.SoundUpTo { reset := rings }) :
    (rings.foldl State.clearForReset s).SoundUpTo {} := by
  induction rings generalizing s with
  | nil => exact h
  | cons r rest ih => exact ih h.clearForReset

/-- RESET_PART (R171). -/
theorem State.SoundUpTo.takeResetPart (h : s.SoundUpTo {}) : s.takeResetPart.SoundUpTo {} := by
  unfold State.takeResetPart
  split
  · exact h
  · refine (State.SoundUpTo.clearAllForReset (List.finRange 16) ?_).testResetCompletion
    exact
      { h with
        requests := fun t ht x hx =>
          have right := h.requests t ht x hx
          { right with }
        resetting := fun _ q => Or.inl (List.mem_finRange q) }

/-! ## The management port -/

theorem State.SoundUpTo.writeControl (h : s.SoundUpTo {}) (value : Word) : (s.writeControl value).SoundUpTo {} := by
  unfold State.writeControl
  extract_lets s1
  have h1 : s1.SoundUpTo {} := by
    simp only [s1]
    split
    · exact h.of_fields
    · exact h
  split
  · exact h1.takeResetPart
  · exact h1

/-- A complete register write (R166). -/
theorem State.SoundUpTo.writeReg (h : s.SoundUpTo {}) (reg : Reg) (value : Word) :
    (s.writeReg reg value).SoundUpTo {} := by
  unfold State.writeReg
  cases reg with
  | unmapped | identification | tickCount | occupancy | eventHead0 | eventHead1 | status | divider | memoryTimeout
    | passFault | errorFlags => exact h.of_fields
  | control => exact h.writeControl value
  | lineEnables => exact h.of_fields
  | eventPop => exact h.of_eq
  | structural r reg => exact State.SoundUpTo.whileRunning h _ fun _ => h.writeStructural r reg value
  | live r reg => exact State.SoundUpTo.whileRunning h _ fun _ => h.writeLive r reg value
  | command r => exact State.SoundUpTo.whileRunning h _ fun running => h.takeCommand running r _
  | fillCounter r c => exact State.SoundUpTo.whileRunning h _ fun _ => h.zeroFillCounter r c
  | lateCounter r => exact State.SoundUpTo.whileRunning h _ fun _ => h.setRing_stream rfl {} rfl rfl

theorem State.SoundUpTo.completeWrite (h : s.SoundUpTo {}) (address : BitVec 16) (reg : Reg) (value : Word) :
    (s.completeWrite address reg value).SoundUpTo {} := by
  unfold State.completeWrite
  split
  · exact h.of_fields
  · exact (h.writeReg reg value).of_fields

theorem State.SoundUpTo.writeAt (h : s.SoundUpTo {}) (reg : Reg) (value : Word) :
    (s.writeAt reg value).SoundUpTo {} := h.completeWrite _ _ _

theorem State.SoundUpTo.addressed (h : s.SoundUpTo {}) (target : BitVec 7) {f : State → State}
    (keeps : (f s).SoundUpTo {}) : (s.addressed target f).SoundUpTo {} := by
  unfold State.addressed
  split
  · exact h.of_fields
  · exact keeps

theorem State.SoundUpTo.outOfReset (h : s.SoundUpTo {}) {f : State → State} (keeps : (f s).SoundUpTo {}) :
    (s.outOfReset f).SoundUpTo {} := by
  unfold State.outOfReset
  split
  · exact h
  · exact keeps

/-- CLEAR_END (R37). -/
theorem State.SoundUpTo.clearEnd (h : s.SoundUpTo {}) (r : RingNo) : (s.testClearEnd r).SoundUpTo {} :=
  State.SoundUpTo.testClearEnd (l := {}) h.grant rfl

/-! ## Steps -/

/-- The part as a hardware reset leaves it (R173): no request, and every ring OFF. -/
theorem State.reset_soundUpTo : State.reset.SoundUpTo {} := by
  have off : ∀ r, (State.reset.ring r).state = .off := fun r => by simp [State.reset, State.ring, Ring.reset]
  have free : ∀ t, State.reset.txn t = none := fun t => by
    simp [State.reset, State.txn, SystemPort.reset]
  refine ⟨fun t => ?_, fun t _ x hx => ?_, fun g hg => ?_, fun o ho => ?_, List.nodup_nil, fun r hr => ?_,
    fun _ r => ?_, fun r on => absurd (off r) on⟩
  · rw [State.placesDue, free]
    rfl
  · rw [free] at hx
    cases hx
  · cases hg
  · cases ho
  · rw [off] at hr
    cases hr
  · exact Or.inr (Or.inl (off r))

/-- Every command keeps the part sound. -/
theorem State.SoundUpTo.exec (h : s.SoundUpTo {}) (c : Instr) {t : State} (next : exec c s = .next t) :
    t.SoundUpTo {} := by
  cases c <;> cases next
  case hardwareReset a1 a0 =>
    exact State.reset_soundUpTo.of_fields
  case heldInReset cut => exact h.of_fields
  case requestAcceptance q => exact h.outOfReset (h.acceptRequest q)
  case writeAdmission =>
    exact h.outOfReset (h.takeOldestAdmission .write fun h admissible => h.takeWrite rfl rfl admissible)
  case readAdmission =>
    exact h.outOfReset (h.takeOldestAdmission .read fun h admissible => h.takeRead rfl rfl admissible)
  case reAdmission => exact h.outOfReset h.readmitHead
  case issueHead => exact h.outOfReset h.considerHead
  case memoryResponse id status data => exact h.outOfReset (h.takeResponse id status data)
  case drainEnd r => exact h.outOfReset (h.testDrainEnd r)
  case clearEnd r => exact h.outOfReset (h.clearEnd r)
  case tick n => exact h.outOfReset (State.SoundUpTo.refclkCycles n h)
  case expiry => exact h.outOfReset h.takeExpiries
  case responseTimeout => exact h.outOfReset h.takeTimeouts
  case responseDelivery => exact h.outOfReset h.deliverHead
  case partResetCompletion => exact h.outOfReset h.testResetCompletion
  case registerWrite target value => exact h.addressed target (h.completeWrite _ _ _)
  case registerPointerSet target address =>
    exact h.addressed target (h.of_fields)
  case partialWriteEnd target stop =>
    refine h.addressed target ?_
    cases stop <;> exact h.of_fields
  case registerRead target bytes =>
    exact h.addressed target (h.of_fields)
  all_goals exact h.writeAt _ _

/-- Every step keeps the part sound. -/
theorem State.Sound.step (h : s.Sound) {t : State} (next : step s = .next t) : t.Sound := by
  have sound := State.soundUpTo_of_sound h
  unfold Machine.step at next
  split at next
  · cases next
    exact h
  · rename_i c rest _
    have dequeued : State.SoundUpTo { s with pending := rest } {} :=
      sound.of_fields
    exact (dequeued.exec c next).sound

end

/-- Settles O21: an admitted write passed the checks that `Ring.placeWrite_frontiers` needs, and every command keeps
`State.Sound`, event by event (`State.SoundUpTo.exec`). -/
theorem writeAdmissionKeepsFrontiersOrdered : Obligations.WriteAdmissionKeepsFrontiersOrdered := by
  refine ⟨fun x u master e order hA hD hF hW hK he admitted room => ?_, fun s t h next => h.step next⟩
  have admits := judgeWrite_says x master e
  rw [admitted] at admits
  exact Ring.placeWrite_frontiers order hA hD hF hW hK he admits room

end Sys2Proof.Machine
end

section
/-! The address law: every event but an ENABLE that passes its checks keeps each ring that is not OFF where it was, and
a part reset that completes finds every ring OFF (O60). -/

namespace Sys2Proof.Machine

/-! ## The checks of ENABLE -/

/-- A test that holds of some other ring not OFF (R26). -/
theorem State.otherRing_iff (s : State) (r : RingNo) (test : Ring → Bool) :
    s.otherRing r test = true ↔ ∃ q, q ≠ r ∧ (s.ring q).state ≠ .off ∧ test (s.ring q) = true := by
  simp [State.otherRing, and_assoc]

/-- Some other ring not OFF has its aperture or its memory span in the ring's aperture (R26). -/
abbrev State.ApertureTaken (s : State) (r : RingNo) : Prop :=
  ∃ q, q ≠ r ∧ (s.ring q).state ≠ .off ∧
    (RangesMeet (s.ring r).apertureStart (s.ring r).A (s.ring q).apertureStart (s.ring q).A
      ∨ RangesMeet (s.ring r).apertureStart (s.ring r).A (s.ring q).spanStart (s.ring q).C)

/-- The ring's memory span ends beyond the address space, meets the ring's own aperture, or meets the span or the
aperture of some other ring not OFF (R26). -/
abbrev State.SpanTaken (s : State) (r : RingNo) : Prop :=
  2 ^ 40 < (s.ring r).spanStart + (s.ring r).C
    ∨ RangesMeet (s.ring r).spanStart (s.ring r).C (s.ring r).apertureStart (s.ring r).A
    ∨ ∃ q, q ≠ r ∧ (s.ring q).state ≠ .off ∧
      (RangesMeet (s.ring r).spanStart (s.ring r).C (s.ring q).spanStart (s.ring q).C
        ∨ RangesMeet (s.ring r).spanStart (s.ring r).C (s.ring q).apertureStart (s.ring q).A)

/-- The checks of ENABLE on the addresses, the sizes and the other rings, each as R26 words it, and then those of the
live set. -/
theorem State.enableRefusal_eq (s : State) (r : RingNo) :
    s.enableRefusal r =
      if ¬ (s.ring r).A ∣ (s.ring r).apertureStart ∨ ¬ 256 ∣ (s.ring r).spanStart then some .align
      else if ¬ (20 ≤ (s.ring r).structural.apertureExponent.toNat ∧ (s.ring r).structural.apertureExponent.toNat ≤ 30)
        ∨ ¬ (12 ≤ (s.ring r).structural.capacityExponent.toNat ∧ (s.ring r).structural.capacityExponent.toNat ≤ 24)
        ∨ (s.ring r).A < 4 * (s.ring r).C then some .size
      else if s.ApertureTaken r then some .aperture
      else if s.SpanTaken r then some .span
      else (s.ring r).active.refusal (s.ring r).C := by
  have align : ((s.ring r).apertureStart % (s.ring r).A ≠ 0 ∨ (s.ring r).spanStart % 256 ≠ 0)
      ↔ (¬ (s.ring r).A ∣ (s.ring r).apertureStart ∨ ¬ 256 ∣ (s.ring r).spanStart) := by
    simp only [Nat.dvd_iff_mod_eq_zero, ne_eq]
  unfold State.enableRefusal
  refine if_congr align rfl (if_congr (by omega) rfl (if_congr ?_ rfl (if_congr ?_ rfl rfl)))
  · simp only [State.otherRing_iff, Bool.or_eq_true, decide_eq_true_eq]
  · simp only [State.otherRing_iff, Bool.or_eq_true, decide_eq_true_eq, Config.addressSpace]

/-- A ring that passes the checks of ENABLE meets no other ring not OFF, and its span is apart from its aperture
(R26). -/
theorem State.apart_of_enableRefusal {s : State} {r : RingNo} (passes : s.enableRefusal r = none) :
    ¬ RangesMeet (s.ring r).spanStart (s.ring r).C (s.ring r).apertureStart (s.ring r).A
      ∧ ∀ q, q ≠ r → (s.ring q).state ≠ .off →
        (¬ RangesMeet (s.ring r).apertureStart (s.ring r).A (s.ring q).apertureStart (s.ring q).A
          ∧ ¬ RangesMeet (s.ring r).apertureStart (s.ring r).A (s.ring q).spanStart (s.ring q).C)
        ∧ ¬ RangesMeet (s.ring r).spanStart (s.ring r).C (s.ring q).spanStart (s.ring q).C
          ∧ ¬ RangesMeet (s.ring r).spanStart (s.ring r).C (s.ring q).apertureStart (s.ring q).A := by
  rw [State.enableRefusal_eq] at passes
  simp only [ite_eq_iff, reduceCtorEq, and_false, false_or] at passes
  obtain ⟨-, -, aperture, span, -⟩ := passes
  exact ⟨fun own => span (Or.inr (Or.inl own)), fun q ne on =>
    ⟨not_or.mp fun meets => aperture ⟨q, ne, on, meets⟩,
      not_or.mp fun meets => span (Or.inr (Or.inr ⟨q, ne, on, meets⟩))⟩⟩

/-! ## Rings that stay in their places -/

/-- A ring that is not OFF after a change was not OFF before it, at the same addresses. -/
def Ring.StaysMapped (x y : Ring) : Prop := y.state ≠ .off → x.state ≠ .off ∧ y.structural = x.structural

theorem Ring.StaysMapped.of_eq {x y : Ring} (state : y.state = x.state) (structural : y.structural = x.structural) :
    x.StaysMapped y := fun on => ⟨state ▸ on, structural⟩

theorem Ring.StaysMapped.of_on {x y : Ring} (on : x.state ≠ .off) (structural : y.structural = x.structural) :
    x.StaysMapped y := fun _ => ⟨on, structural⟩

theorem Ring.StaysMapped.of_off {x y : Ring} (off : y.state = .off) : x.StaysMapped y := fun on => absurd off on

theorem Ring.StaysMapped.trans {x y z : Ring} (h : x.StaysMapped y) (k : y.StaysMapped z) : x.StaysMapped z :=
  fun on => ⟨(h (k on).1).1, (k on).2.trans (h (k on).1).2⟩

/-- Every ring stays in its place, and the part in its state. -/
structure State.KeepsMap (s₀ s : State) : Prop where
  part : s.part = s₀.part
  rings : ∀ r, (s₀.ring r).StaysMapped (s.ring r)

/-- No ring that is not OFF has come or moved, so none meets another now (R26). -/
theorem State.AddressLaw.of_keepsMap {s₀ s : State} (law : s₀.AddressLaw) (h : s₀.KeepsMap s) : s.AddressLaw := by
  have places : ∀ r, (s.ring r).state ≠ .off → (s₀.ring r).state ≠ .off
      ∧ (s.ring r).apertureStart = (s₀.ring r).apertureStart ∧ (s.ring r).A = (s₀.ring r).A
      ∧ (s.ring r).spanStart = (s₀.ring r).spanStart ∧ (s.ring r).C = (s₀.ring r).C := by
    intro r on
    obtain ⟨on₀, same⟩ := h.rings r on
    unfold Ring.apertureStart Ring.A Ring.spanStart Ring.C
    rw [same]
    exact ⟨on₀, rfl, rfl, rfl, rfl⟩
  constructor
  · intro q r ne onq onr
    obtain ⟨onq₀, q1, q2, q3, q4⟩ := places q onq
    obtain ⟨onr₀, r1, r2, r3, r4⟩ := places r onr
    rw [q1, q2, q3, q4, r1, r2, r3, r4]
    exact law.apart q r ne onq₀ onr₀
  · intro q r onq onr
    obtain ⟨onq₀, -, -, q3, q4⟩ := places q onq
    obtain ⟨onr₀, r1, r2, -, -⟩ := places r onr
    rw [q3, q4, r1, r2]
    exact law.spans q r onq₀ onr₀

theorem State.AddressLaw.of_off {s : State} (off : ∀ r, (s.ring r).state = .off) : s.AddressLaw :=
  ⟨fun q _ _ on => absurd (off q) on, fun q _ on => absurd (off q) on⟩

section
variable {s₀ s s' : State}

theorem State.KeepsMap.refl (s : State) : s.KeepsMap s := ⟨rfl, fun _ => .of_eq rfl rfl⟩

/-- A change that keeps every ring in its place, after others that did. -/
theorem State.KeepsMap.step (h : s₀.KeepsMap s) (part : s'.part = s.part)
    (rings : ∀ r, (s.ring r).StaysMapped (s'.ring r)) : s₀.KeepsMap s' :=
  ⟨part.trans h.part, fun r => (h.rings r).trans (rings r)⟩

theorem State.KeepsMap.of_eq (h : s₀.KeepsMap s) (ring : ∀ r, s'.ring r = s.ring r := by simp)
    (part : s'.part = s.part := by simp) : s₀.KeepsMap s' :=
  h.step part fun r => by rw [ring]; exact .of_eq rfl rfl

/-- A change that leaves the rings alone and may touch any other field but the part state. -/
theorem State.KeepsMap.of_fields (h : s₀.KeepsMap s) (rings : s'.rings = s.rings := by rfl)
    (part : s'.part = s.part := by rfl) : s₀.KeepsMap s' := h.of_eq (State.ring_congr rings) part

/-- A change of one ring alone. -/
theorem State.KeepsMap.one (h : s₀.KeepsMap s) {r : RingNo} (stays : (s.ring r).StaysMapped (s'.ring r))
    (others : ∀ q, q ≠ r → s'.ring q = s.ring q) (part : s'.part = s.part := by simp) : s₀.KeepsMap s' := by
  refine h.step part fun q => ?_
  by_cases same : q = r
  · exact same ▸ stays
  · rw [others q same]
    exact .of_eq rfl rfl

theorem State.KeepsMap.setRing (h : s₀.KeepsMap s) {r : RingNo} {y : Ring} (stays : (s.ring r).StaysMapped y) :
    s₀.KeepsMap (s.setRing r y) :=
  h.one (by rwa [State.ring_setRing_self]) fun q ne => State.ring_setRing_ne s ne y

/-- A change of a ring's other fields. -/
theorem State.KeepsMap.setRing_same (h : s₀.KeepsMap s) {r : RingNo} {y : Ring}
    (state : y.state = (s.ring r).state := by rfl) (structural : y.structural = (s.ring r).structural := by rfl) :
    s₀.KeepsMap (s.setRing r y) :=
  h.setRing (.of_eq state structural)

/-! ## The ring engine -/

theorem State.KeepsMap.raise (h : s₀.KeepsMap s) (r : RingNo) (k : EventKind) (p : Option Nat) (c : EventCount) :
    s₀.KeepsMap (s.raise r k p c) := h.of_eq

theorem State.KeepsMap.answer (h : s₀.KeepsMap s) (u : TxnNo) (a : Status) (d : List Byte) :
    s₀.KeepsMap (s.answer u a d) := h.of_eq

theorem State.KeepsMap.askHold (h : s₀.KeepsMap s) (u : TxnNo) (x : Txn) (r : RingNo) (w : HoldReason) :
    s₀.KeepsMap (s.askHold u x r w) := h.of_eq

theorem State.KeepsMap.enqueueParts (h : s₀.KeepsMap s) (u : TxnNo) (x : Txn) (c : OpClass) :
    s₀.KeepsMap (s.enqueueParts u x c) := h.of_eq

theorem State.KeepsMap.answerHeld (h : s₀.KeepsMap s) (chosen : HoldEntry → Bool) (status : HoldEntry → Status) :
    s₀.KeepsMap (s.answerHeld chosen status) := h.of_eq

theorem State.KeepsMap.releaseScan (h : s₀.KeepsMap s) (r : RingNo) (examines : HoldReason → Bool) :
    s₀.KeepsMap (s.releaseScan r examines) := h.of_eq

theorem State.KeepsMap.evaluateLevel (h : s₀.KeepsMap s) (r : RingNo) : s₀.KeepsMap (s.evaluateLevel r) :=
  h.one (by rw [State.ring_evaluateLevel_self]; exact .of_eq rfl rfl)
    fun q ne => by rw [State.ring_evaluateLevel, if_neg ne]

theorem State.KeepsMap.testDrainEnd (h : s₀.KeepsMap s) (r : RingNo) : s₀.KeepsMap (s.testDrainEnd r) := by
  refine h.one (r := r) ?_ fun q ne => by rw [State.ring_testDrainEnd, if_neg fun k => ne k.1]
  rw [State.ring_testDrainEnd]
  split
  · rename_i drains
    exact .of_on (by simp [drains.2.1]) rfl
  · exact .of_eq rfl rfl

theorem State.KeepsMap.testClearEnd (h : s₀.KeepsMap s) (r : RingNo) : s₀.KeepsMap (s.testClearEnd r) := by
  refine h.one (r := r) ?_ fun q ne => by rw [State.ring_testClearEnd, if_neg fun k => ne k.1]
  rw [State.ring_testClearEnd]
  split
  · exact .of_off rfl
  · exact .of_eq rfl rfl

theorem State.KeepsMap.beginClear (h : s₀.KeepsMap s) {r : RingNo} (on : (s.ring r).state ≠ .off) :
    s₀.KeepsMap (s.beginClear r) := by
  have answered : s₀.KeepsMap (s.answerHoldList r fun _ => .aborted) := h.of_eq
  exact (answered.setRing (.of_on (by simpa using on) (by simp))).testClearEnd r

theorem State.KeepsMap.enterHalted (h : s₀.KeepsMap s) {r : RingNo} (on : (s.ring r).state ≠ .off) :
    s₀.KeepsMap (s.enterHalted r) :=
  h.one (by rw [State.ring_enterHalted, if_pos rfl]; exact .of_on on rfl)
    fun q ne => by rw [State.ring_enterHalted, if_neg ne]

theorem State.KeepsMap.absorbWrites (h : s₀.KeepsMap s) {r : RingNo} (on : (s.ring r).state ≠ .off) :
    s₀.KeepsMap (s.absorbWrites r) := by
  obtain ⟨active, pending, outcome, side, absorbed⟩ := s.ring_absorbWrites_self r
  exact h.one (by rw [absorbed]; exact .of_on on rfl) fun q ne => s.ring_absorbWrites_ne ne

theorem State.KeepsMap.absorbReads (h : s₀.KeepsMap s) (r : RingNo) : s₀.KeepsMap (s.absorbReads r) := by
  obtain ⟨side, absorbed, -⟩ := s.ring_absorbReads_self r
  exact h.one (by rw [absorbed]; exact .of_eq rfl rfl) fun q ne => s.ring_absorbReads_ne ne

theorem State.KeepsMap.endWrite (h : s₀.KeepsMap s) (r : RingNo) (u : TxnNo) (ok : Bool) :
    s₀.KeepsMap (s.endWrite r u ok) := by
  unfold State.endWrite
  extract_lets x fill s1 s2
  have h1 : s₀.KeepsMap s1 := h.setRing_same
  have h2 : s₀.KeepsMap s2 := h1.answer _ _ _
  split
  · rename_i moves
    refine h2.absorbWrites ?_
    simp only [s2, s1, State.ring_answer, State.ring_setRing_self]
    rcases moves with state | state <;> simp [state]
  · exact h2

theorem State.KeepsMap.endRead (h : s₀.KeepsMap s) (r : RingNo) (u : TxnNo) (ok : Bool) (data : List Byte) :
    s₀.KeepsMap (s.endRead r u ok data) := by
  unfold State.endRead
  extract_lets x s1 s2 s3
  have h1 : s₀.KeepsMap s1 := h.answer _ _ _
  have h2 : s₀.KeepsMap s2 := h1.setRing_same (by simp [s1, x]) (by simp [s1, x])
  have h3 : s₀.KeepsMap s3 := h.answer _ _ _
  split
  · split
    · split
      · exact h2.absorbReads r
      · exact h2
    · exact h1
  · exact h3.setRing_same (by simp [s3, x]) (by simp [s3, x])

/-- The completion test of a part reset does nothing while the part is RUNNING (R172). -/
theorem State.KeepsMap.testResetCompletion (h : s₀.KeepsMap s) (running : s₀.part = .running) :
    s₀.KeepsMap s.testResetCompletion := by
  rw [State.testResetCompletion_of_running _ (h.part.trans running)]
  exact h

/-! ## Admissions -/

theorem State.KeepsMap.overtake (h : s₀.KeepsMap s) (r : RingNo) (e : Nat) : s₀.KeepsMap (s.overtake r e) := by
  unfold State.overtake
  extract_lets x d1 a s1 stale s2 y s3 s4 s5
  have h1 : s₀.KeepsMap s1 := h.setRing_same
  have h2 : s₀.KeepsMap s2 := h1.answerHeld _ _
  have h3 : s₀.KeepsMap s3 := h2.setRing_same
  exact ((h3.raise _ _ _ _).evaluateLevel r).releaseScan _ _

theorem State.KeepsMap.takeWrite (h : s₀.KeepsMap s) (u : TxnNo) (x : Txn) (r : RingNo) (e : Extent) :
    s₀.KeepsMap (s.takeWrite u x r e) := by
  unfold State.takeWrite
  split
  · exact h.answer _ _ _
  split
  · have rejected : s₀.KeepsMap (s.setTxn u (some { x with cls := some .reject })) := h.of_fields
    exact rejected.answer _ _ _
  · exact h.setRing_same.answer _ _ _
  · exact h.answer _ _ _
  · exact h.askHold _ _ _ _
  · obtain ⟨state, structural, -⟩ := (s.ring r).placeWrite_same u e
    have placed := h.setRing_same state structural
    unfold State.admitWrite
    dsimp only
    split
    · exact (placed.overtake r _).enqueueParts _ _ _
    · exact placed.enqueueParts _ _ _

theorem State.KeepsMap.poisonedRead (h : s₀.KeepsMap s) (u : TxnNo) (r : RingNo) (part : Option Extent) :
    s₀.KeepsMap (s.poisonedRead u r part) := by
  have answered : s₀.KeepsMap (s.answer u .poisoned) := h.answer _ _ _
  cases part with
  | none => exact answered
  | some c =>
    exact State.KeepsMap.absorbReads (s := (s.answer u .poisoned).setRing r
      { (((s.answer u .poisoned).ring r).placeRead u (some c) .landed) with drain := _ }) answered.setRing_same r

theorem State.KeepsMap.takeRead (h : s₀.KeepsMap s) (u : TxnNo) (x : Txn) (r : RingNo) (e : Extent) :
    s₀.KeepsMap (s.takeRead u x r e) := by
  rw [State.takeRead_eq]
  generalize readClass (s.ring r) x.master = cls
  have classed : s₀.KeepsMap (s.setTxn u (some { x with cls := some cls })) := h.of_fields
  split
  · exact classed.answer _ _ _
  · cases judgeRead (s.ring r) cls e with
    | answer status => exact classed.answer _ _ _
    | hold => exact classed.askHold _ _ _ _
    | poisoned => exact classed.poisonedRead _ _ _
    | admitted =>
      obtain ⟨state, structural, -⟩ := (s.ring r).placeRead_same u (consumePart (s.ring r) cls e) .inFlight
      exact (classed.setRing_same state structural).enqueueParts _ _ _

theorem State.KeepsMap.takeOldestAdmission (h : s₀.KeepsMap s) (direction : Direction)
    {take : State → TxnNo → Txn → RingNo → Extent → State}
    (keeps : ∀ {s : State} (u : TxnNo) (x : Txn) (r : RingNo) (e : Extent), s₀.KeepsMap s →
      s₀.KeepsMap (take s u x r e)) : s₀.KeepsMap (s.takeOldestAdmission direction take) := by
  unfold State.takeOldestAdmission
  split
  · exact h
  split
  · exact h
  split
  · split
    · exact keeps _ _ _ _ h.of_fields
    · exact h
  · exact h

theorem State.KeepsMap.readmitHead (h : s₀.KeepsMap s) : s₀.KeepsMap s.readmitHead := by
  unfold State.readmitHead
  split
  swap
  · exact h
  split
  · exact h
  split
  · exact h
  rename_i g _
  have removed : s₀.KeepsMap { s with pool := s.pool.remove [g] } := h.of_fields
  unfold State.admitHeld
  split
  · exact removed
  split
  · exact removed
  split
  · exact removed.takeWrite _ _ _ _
  · exact removed.takeRead _ _ _ _

/-! ## The ports and the timebase -/

theorem State.KeepsMap.considerHead (h : s₀.KeepsMap s) (running : s₀.part = .running) :
    s₀.KeepsMap s.considerHead := by
  unfold State.considerHead
  split
  · exact h
  split
  · rename_i op rest _ _
    have dequeued : s₀.KeepsMap { s with mem := { s.mem with queue := rest } } := h.of_fields
    exact (dequeued.answer _ _ _).testResetCompletion running
  split
  · exact h
  split
  · exact h
  · exact h.of_eq (by intro; rw [State.ring_issue]) (by rw [State.issue_part])

theorem State.KeepsMap.reportEnd (h : s₀.KeepsMap s) (running : s₀.part = .running) (u : TxnNo)
    (p : PartNo) (e : OpEnd) : s₀.KeepsMap (s.reportEnd u p e) := by
  cases txn : s.txn u with
  | none =>
    simp only [State.reportEnd, txn]
    exact h.testResetCompletion running
  | some x =>
    have recorded : s₀.KeepsMap (s.setTxn u (some (x.endPart p e))) := h.of_fields
    cases ring : x.ring with
    | none =>
      rw [State.reportEnd_passThrough s txn ring]
      refine State.KeepsMap.testResetCompletion ?_ running
      split
      · exact recorded.of_eq
      · exact recorded
    | some r =>
      rw [State.reportEnd_ring s txn ring]
      refine State.KeepsMap.testResetCompletion (State.KeepsMap.testClearEnd ?_ r) running
      split
      · unfold State.endRingRequest
        split
        · exact recorded.endWrite _ _ _
        · exact recorded.endRead _ _ _ _
      · exact recorded

theorem State.KeepsMap.takeResponse (h : s₀.KeepsMap s) (running : s₀.part = .running) (id : BitVec 6)
    (status : MemoryStatus) (data : List Byte) : s₀.KeepsMap (s.takeResponse id status data) := by
  unfold State.takeResponse
  split
  · exact h
  rename_i o _
  have freed : s₀.KeepsMap (s.freeOperation o.id) := h.of_fields
  split
  · exact freed
  split
  · have counted : s₀.KeepsMap ((s.countMissing o.length data).freeOperation o.id) := h.of_eq
    exact counted.reportEnd running _ _ _
  · exact freed.reportEnd running _ _ _
  · exact freed.reportEnd running _ _ _

theorem State.KeepsMap.takeTimeouts (h : s₀.KeepsMap s) (running : s₀.part = .running) : s₀.KeepsMap s.takeTimeouts :=
  foldl_keeps _ s₀.KeepsMap _ (fun _ _ _ hs => State.KeepsMap.reportEnd hs.of_fields running _ _ _) _ h

theorem State.KeepsMap.deliverHead (h : s₀.KeepsMap s) (running : s₀.part = .running) : s₀.KeepsMap s.deliverHead := by
  unfold State.deliverHead
  split
  · exact h
  split
  · exact h
  · exact State.KeepsMap.testResetCompletion h.of_fields running

theorem State.KeepsMap.countLate (h : s₀.KeepsMap s) (r : RingNo) : s₀.KeepsMap (s.countLate r) := h.setRing_same

theorem State.KeepsMap.takeExpiries (h : s₀.KeepsMap s) : s₀.KeepsMap s.takeExpiries :=
  foldl_keeps _ s₀.KeepsMap _ (fun _ g _ hs => State.KeepsMap.countLate hs g.ring) _ (h.answerHeld _ _)

theorem State.KeepsMap.settleAdvance (h : s₀.KeepsMap s) (running : s₀.part = .running) :
    s₀.KeepsMap s.settleAdvance := by
  have counted : s₀.KeepsMap { s with freeCount := s.freeCount + 1 } := h.of_fields
  unfold State.settleAdvance
  dsimp only
  split
  · split
    · exact counted.takeExpiries.takeTimeouts running
    · exact (counted.takeTimeouts running).takeExpiries
  · exact h.takeExpiries.takeTimeouts running

theorem State.KeepsMap.refclkCycles (n : Nat) (h : s₀.KeepsMap s) (running : s₀.part = .running) :
    s₀.KeepsMap (s.refclkCycles n) := by
  induction n generalizing s with
  | zero => exact h
  | succ n ih =>
    refine ih (s := s.refclkCycle) ?_
    unfold State.refclkCycle
    split
    · exact (h.settleAdvance running).of_eq
    · exact h.of_fields

/-! ## Commands and descriptor writes -/

theorem State.KeepsMap.setOutcome (h : s₀.KeepsMap s) (r : RingNo) (o : CommandOutcome) :
    s₀.KeepsMap (s.setOutcome r o) := h.setRing_same

theorem State.KeepsMap.takePause (h : s₀.KeepsMap s) (r : RingNo) : s₀.KeepsMap (s.takePause r) := by
  unfold State.takePause
  split
  · rename_i active
    have draining : s₀.KeepsMap (s.setRing r { s.ring r with state := .draining, outcome := .accepted }) :=
      h.setRing (.of_on (by simp [active]) rfl)
    have answered : s₀.KeepsMap
        ((s.setRing r { s.ring r with state := .draining, outcome := .accepted }).answerHoldList r pauseAnswer) :=
      draining.of_eq
    exact answered.testDrainEnd r
  · exact h.setOutcome r _

theorem State.KeepsMap.takeResume (h : s₀.KeepsMap s) (r : RingNo) : s₀.KeepsMap (s.takeResume r) := by
  unfold State.takeResume
  split
  · rename_i paused
    exact h.setRing (.of_on (by simp [paused]) rfl)
  · exact h.setOutcome r _

theorem State.KeepsMap.takeHalt (h : s₀.KeepsMap s) (r : RingNo) : s₀.KeepsMap (s.takeHalt r) := by
  unfold State.takeHalt
  cases state : (s.ring r).state with
  | active | draining | paused => exact (h.setOutcome r _).enterHalted (by simp [State.setOutcome, state])
  | off | halted | clearing => exact h.setOutcome r _

theorem State.KeepsMap.takeClear (h : s₀.KeepsMap s) (r : RingNo) : s₀.KeepsMap (s.takeClear r) := by
  unfold State.takeClear
  cases state : (s.ring r).state with
  | active | draining | paused | halted => exact h.beginClear (by simp [state])
  | off | clearing => exact h.setOutcome r _

theorem State.KeepsMap.takeApplyNow (h : s₀.KeepsMap s) (r : RingNo) : s₀.KeepsMap (s.takeApplyNow r) := by
  unfold State.takeApplyNow
  dsimp only
  split
  · exact h.setOutcome r _
  split
  · exact h.setOutcome r _
  split
  · have applied : s₀.KeepsMap (s.setRing r { (s.ring r).applyShadow with outcome := .accepted }) :=
      h.setRing_same
    have evaluated := applied.evaluateLevel r
    unfold State.applyOnCommand
    dsimp only
    split
    · exact (evaluated.releaseScan _ _).raise _ _ _ _
    · exact evaluated.raise _ _ _ _
  · exact h.setOutcome r _

theorem State.KeepsMap.writeStructural (h : s₀.KeepsMap s) (r : RingNo) (g : StructuralReg) (v : Word) :
    s₀.KeepsMap (s.writeStructural r g v) := by
  unfold State.writeStructural
  dsimp only
  split
  · rename_i off
    exact h.setRing (.of_off off)
  · exact h.of_fields

theorem State.KeepsMap.applyImmediately (h : s₀.KeepsMap s) (r : RingNo) : s₀.KeepsMap (s.applyImmediately r) := by
  have attempted := h.setRing_same (s.ring r).attemptApply_state (s.ring r).attemptApply_structural
  unfold State.applyImmediately
  dsimp only
  split
  · exact attempted.evaluateLevel r
  · exact attempted

theorem State.KeepsMap.writeLive (h : s₀.KeepsMap s) (r : RingNo) (g : LiveReg) (v : Word) :
    s₀.KeepsMap (s.writeLive r g v) := by
  have shadowed : s₀.KeepsMap (s.setRing r { s.ring r with shadow := (s.ring r).shadow.write g v }) :=
    h.setRing_same
  unfold State.writeLive
  dsimp only
  split
  · exact h.setRing_same
  · exact shadowed.applyImmediately r
  · exact shadowed.applyImmediately r
  all_goals exact h.setRing_same

theorem State.KeepsMap.whileRunning (h : s₀.KeepsMap s) {f : State → State} (keeps : s₀.KeepsMap (f s)) :
    s₀.KeepsMap (s.whileRunning f) := by
  unfold State.whileRunning
  split
  · exact keeps
  · exact h.of_fields

end

/-! ## ENABLE -/

/-- A ring that passes the checks of ENABLE is not OFF beside the others, and meets none of them (R26, R29). -/
theorem State.AddressLaw.takeEnable {s : State} (law : s.AddressLaw) (r : RingNo) : (s.takeEnable r).AddressLaw := by
  have refused : ∀ o, (s.setOutcome r o).AddressLaw := fun o =>
    law.of_keepsMap ((State.KeepsMap.refl s).setOutcome r o)
  unfold State.takeEnable
  split
  swap
  · exact refused _
  cases passes : s.enableRefusal r with
  | some reason => exact refused _
  | none =>
    obtain ⟨own, others⟩ := State.apart_of_enableRefusal passes
    have ring : ∀ q, ((s.setRing r (s.ring r).enabled).ring q).apertureStart = (s.ring q).apertureStart
        ∧ ((s.setRing r (s.ring r).enabled).ring q).A = (s.ring q).A
        ∧ ((s.setRing r (s.ring r).enabled).ring q).spanStart = (s.ring q).spanStart
        ∧ ((s.setRing r (s.ring r).enabled).ring q).C = (s.ring q).C
        ∧ (q ≠ r → ((s.setRing r (s.ring r).enabled).ring q).state = (s.ring q).state) := by
      intro q
      rw [State.ring_setRing]
      split
      · rename_i same
        subst same
        exact ⟨rfl, rfl, rfl, rfl, fun ne => absurd rfl ne⟩
      · exact ⟨rfl, rfl, rfl, rfl, fun _ => rfl⟩
    constructor
    · intro p q ne onp onq
      obtain ⟨p1, p2, p3, p4, p5⟩ := ring p
      obtain ⟨q1, q2, q3, q4, q5⟩ := ring q
      rw [p1, p2, p3, p4, q1, q2, q3, q4]
      by_cases hp : p = r
      · subst hp
        rw [q5 ne.symm] at onq
        exact ⟨(others q ne.symm onq).1.1, (others q ne.symm onq).2.1⟩
      · rw [p5 hp] at onp
        by_cases hq : q = r
        · subst hq
          exact ⟨fun meet => (others p hp onp).1.1 (rangesMeet_symm meet),
            fun meet => (others p hp onp).2.1 (rangesMeet_symm meet)⟩
        · rw [q5 hq] at onq
          exact law.apart p q ne onp onq
    · intro p q onp onq
      obtain ⟨-, -, p3, p4, p5⟩ := ring p
      obtain ⟨q1, q2, -, -, q5⟩ := ring q
      rw [p3, p4, q1, q2]
      by_cases hp : p = r
      · subst hp
        by_cases hq : q = p
        · exact hq ▸ own
        · exact (others q hq (q5 hq ▸ onq)).2.2
      · rw [p5 hp] at onp
        by_cases hq : q = r
        · subst hq
          exact fun meet => (others p hp onp).1.2 (rangesMeet_symm meet)
        · exact law.spans p q onp (q5 hq ▸ onq)

theorem State.AddressLaw.takeCommand {s : State} (law : s.AddressLaw) (r : RingNo) (code : BitVec 4) :
    (s.takeCommand r code).AddressLaw := by
  have kept := State.KeepsMap.refl s
  unfold State.takeCommand
  split
  · exact law.takeEnable r
  · exact law.of_keepsMap (kept.takePause r)
  · exact law.of_keepsMap (kept.takeResume r)
  · exact law.of_keepsMap (kept.takeHalt r)
  · exact law.of_keepsMap (kept.takeClear r)
  · exact law.of_keepsMap (kept.takeApplyNow r)
  · exact law.of_keepsMap (kept.setRing_same)
  · exact law.of_keepsMap (kept.setOutcome r _)

/-! ## The part reset -/

/-- A clear that begins keeps the ring of every request. -/
theorem State.ringOf_testClearEnd (s : State) (r : RingNo) (t : TxnNo) : (s.testClearEnd r).ringOf t = s.ringOf t := by
  unfold State.testClearEnd
  split
  · rw [State.ringOf, State.txn_raise]
    exact State.ringOf_markCleared _ r t
  · rfl

theorem State.ringBusy_beginClear (s : State) (r q : RingNo) : (s.beginClear r).ringBusy q = s.ringBusy q :=
  State.ringBusy_congr q (by simp) fun u => by
    unfold State.beginClear
    rw [State.ringOf_testClearEnd]
    exact State.ringOf_answerHeld _ _ _ u

/-- A clear that begins leaves its ring OFF, or CLEARING with an operation left (R36, R37). -/
theorem State.ClearingIsBusy.beginClear {s : State} (busy : s.ClearingIsBusy) (r : RingNo) :
    (s.beginClear r).ClearingIsBusy := by
  intro q clearing
  rw [State.ringBusy_beginClear]
  rw [State.ring_beginClear] at clearing
  split at clearing
  · rename_i same
    subst same
    split at clearing
    · cases clearing
    · rename_i left
      rw [Bool.not_eq_false] at left
      rw [← left]
      exact State.ringBusy_congr q (by simp) fun u => (State.ringOf_answerHeld s _ _ u).symm
  · exact busy q clearing

/-- The rings that a part reset has taken are OFF, or CLEARING with an operation left (R42, R171). -/
structure State.ClearedBut (s : State) (rest : List RingNo) : Prop where
  busy : s.ClearingIsBusy
  cleared : ∀ q, q ∈ rest ∨ (s.ring q).state = .off ∨ (s.ring q).state = .clearing

theorem State.ClearedBut.clearForReset {s : State} {r : RingNo} {rest : List RingNo} (h : s.ClearedBut (r :: rest)) :
    (s.clearForReset r).ClearedBut rest := by
  have begun : (s.beginClear r).ClearedBut rest := by
    refine ⟨h.busy.beginClear r, fun q => ?_⟩
    by_cases same : q = r
    · exact Or.inr (same ▸ s.beginClear_cleared r)
    · rw [State.ring_beginClear, if_neg same]
      simpa [same] using h.cleared q
  have untouched (state : (s.ring r).state = .off ∨ (s.ring r).state = .clearing) : s.ClearedBut rest := by
    refine ⟨h.busy, fun q => ?_⟩
    by_cases same : q = r
    · exact Or.inr (same ▸ state)
    · simpa [same] using h.cleared q
  unfold State.clearForReset
  cases state : (s.ring r).state with
  | active | draining | paused | halted => exact begun
  | off => exact untouched (Or.inl state)
  | clearing => exact untouched (Or.inr state)

theorem State.ClearedBut.foldl (rings : List RingNo) {s : State} (h : s.ClearedBut rings) :
    (rings.foldl State.clearForReset s).ClearedBut [] := by
  induction rings generalizing s with
  | nil => exact h
  | cons r rest ih => exact ih h.clearForReset

theorem State.KeepsMap.clearForReset {s₀ s : State} (h : s₀.KeepsMap s) (r : RingNo) :
    s₀.KeepsMap (s.clearForReset r) := by
  unfold State.clearForReset
  cases state : (s.ring r).state with
  | active | draining | paused | halted => exact h.beginClear (by simp [state])
  | off | clearing => exact h

/-- A part reset that may complete has no operation of any ring left (R172). -/
theorem State.not_busy_of_resetMayComplete {s : State} (h : s.resetMayComplete = true) (r : RingNo) :
    s.ringBusy r = false := by
  simp only [State.resetMayComplete, Bool.and_eq_true, List.isEmpty_iff, List.all_eq_true, decide_eq_true_eq] at h
  obtain ⟨⟨-, queue⟩, orphans⟩ := h
  rw [State.ringBusy, queue, List.any_nil, Bool.false_or, List.any_eq_false]
  intro o ho
  simp [orphans o ho]

/-- A part reset that completes when it has cleared every ring finds each of them OFF. -/
theorem State.AddressLaw.testResetCompletion {s : State} (law : s.AddressLaw) (cleared : s.ClearedBut []) :
    s.testResetCompletion.AddressLaw := by
  unfold State.testResetCompletion
  split
  · rename_i complete
    refine State.AddressLaw.of_off fun r => ?_
    rw [State.ring_emptyEvents, State.ring, mapPlaces_get]
    show (s.ring r).state = .off
    rcases (cleared.cleared r).resolve_left List.not_mem_nil with off | clearing
    · exact off
    · have := cleared.busy r clearing
      rw [State.not_busy_of_resetMayComplete complete] at this
      cases this
  · exact law

theorem State.AddressLaw.takeResetPart {s : State} (law : s.AddressLaw) (busy : s.ClearingIsBusy) :
    s.takeResetPart.AddressLaw := by
  unfold State.takeResetPart
  split
  · exact law
  · have resetting : State.AddressLaw { s with part := .resetting } := ⟨law.apart, law.spans⟩
    refine State.AddressLaw.testResetCompletion (resetting.of_keepsMap ?_) (State.ClearedBut.foldl _ ?_)
    · exact foldl_keeps _ (State.KeepsMap _) _ (fun _ r _ hs => hs.clearForReset r) _ (State.KeepsMap.refl _)
    · exact ⟨busy, fun q => Or.inl (List.mem_finRange q)⟩

/-! ## Every command -/

theorem State.AddressLaw.whileRunning {s : State} (law : s.AddressLaw) {f : State → State} (keeps : (f s).AddressLaw) :
    (s.whileRunning f).AddressLaw := by
  unfold State.whileRunning
  split
  · exact keeps
  · exact law.of_keepsMap (State.KeepsMap.refl s).of_fields

/-- A complete register write (R166). -/
theorem State.AddressLaw.writeReg {s : State} (law : s.AddressLaw) (busy : s.ClearingIsBusy) (reg : Reg) (v : Word) :
    (s.writeReg reg v).AddressLaw := by
  have kept := State.KeepsMap.refl s
  unfold State.writeReg
  cases reg with
  | unmapped | identification | tickCount | occupancy | eventHead0 | eventHead1 | status | divider | memoryTimeout
    | passFault | errorFlags => exact law.of_keepsMap kept.of_fields
  | lineEnables => exact law.of_keepsMap kept.of_fields
  | eventPop => exact law.of_keepsMap kept.of_eq
  | control =>
    have lost : s.clearLost.AddressLaw := law.of_keepsMap kept.of_fields
    unfold State.writeControl
    dsimp only
    split <;> split
    · exact lost.takeResetPart busy
    · exact law.takeResetPart busy
    · exact lost
    · exact law
  | structural r g => exact State.AddressLaw.whileRunning law (law.of_keepsMap (kept.writeStructural r g v))
  | live r g => exact State.AddressLaw.whileRunning law (law.of_keepsMap (kept.writeLive r g v))
  | command r => exact State.AddressLaw.whileRunning law (law.takeCommand r _)
  | fillCounter r c =>
    refine State.AddressLaw.whileRunning law (law.of_keepsMap ?_)
    cases c with
    | discard | overtake => exact kept.setRing_same
  | lateCounter r => exact State.AddressLaw.whileRunning law (law.of_keepsMap (kept.setRing_same))

theorem State.AddressLaw.completeWrite {s : State} (law : s.AddressLaw) (busy : s.ClearingIsBusy) (a : BitVec 16)
    (reg : Reg) (v : Word) : (s.completeWrite a reg v).AddressLaw := by
  unfold State.completeWrite
  split
  · exact law.of_keepsMap (State.KeepsMap.refl s).of_fields
  · exact (law.writeReg busy reg v).of_keepsMap (State.KeepsMap.refl _).of_fields

theorem State.AddressLaw.addressed {s : State} (law : s.AddressLaw) (target : BitVec 7) {f : State → State}
    (keeps : (f s).AddressLaw) : (s.addressed target f).AddressLaw := by
  unfold State.addressed
  split
  · exact law.of_keepsMap (State.KeepsMap.refl s).of_fields
  · exact keeps

theorem State.AddressLaw.outOfReset {s : State} (law : s.AddressLaw) {f : State → State} (keeps : s.KeepsMap (f s)) :
    (s.outOfReset f).AddressLaw := by
  unfold State.outOfReset
  split
  · exact law
  · exact law.of_keepsMap keeps

/-- Every command that is taken while the part is RUNNING keeps the address law. -/
theorem State.AddressLaw.exec {s t : State} (law : s.AddressLaw) (running : s.part = .running)
    (busy : s.ClearingIsBusy) (c : Instr) (next : exec c s = .next t) : t.AddressLaw := by
  have kept := State.KeepsMap.refl s
  cases c <;> cases next
  case hardwareReset a1 a0 =>
    exact State.AddressLaw.of_off fun r => by simp [State.reset, State.ring, Ring.reset]
  case heldInReset cut => exact law.of_keepsMap kept.of_fields
  case requestAcceptance q => exact law.outOfReset kept.of_eq
  case writeAdmission =>
    exact law.outOfReset (kept.takeOldestAdmission .write fun u x r e h => h.takeWrite u x r e)
  case readAdmission =>
    exact law.outOfReset (kept.takeOldestAdmission .read fun u x r e h => h.takeRead u x r e)
  case reAdmission => exact law.outOfReset kept.readmitHead
  case issueHead => exact law.outOfReset (kept.considerHead running)
  case memoryResponse id status data => exact law.outOfReset (kept.takeResponse running id status data)
  case drainEnd r => exact law.outOfReset (kept.testDrainEnd r)
  case clearEnd r => exact law.outOfReset (kept.testClearEnd r)
  case tick n => exact law.outOfReset (State.KeepsMap.refclkCycles n kept running)
  case expiry => exact law.outOfReset kept.takeExpiries
  case responseTimeout => exact law.outOfReset (kept.takeTimeouts running)
  case responseDelivery => exact law.outOfReset (kept.deliverHead running)
  case partResetCompletion => exact law.outOfReset (kept.testResetCompletion running)
  case registerWrite target value => exact law.addressed target (law.completeWrite busy _ _ _)
  case registerPointerSet target address => exact law.addressed target (law.of_keepsMap kept.of_fields)
  case partialWriteEnd target stop =>
    refine law.addressed target (law.of_keepsMap ?_)
    cases stop <;> exact kept.of_fields
  case registerRead target bytes => exact law.addressed target (law.of_keepsMap kept.of_fields)
  all_goals exact law.completeWrite busy _ _ _

/-- Settles O60: a step executes the front command with the rest of the queue, and every command keeps the address law
(`State.AddressLaw.exec`). -/
theorem addressLawIsKept : Obligations.AddressLawIsKept := by
  intro s t running busy law next
  unfold Machine.step at next
  split at next
  · cases next
    exact law
  · rename_i c rest _
    have dequeued : State.AddressLaw { s with pending := rest } := law.of_keepsMap (State.KeepsMap.refl s).of_fields
    exact dequeued.exec running busy c next

end Sys2Proof.Machine
end

section
/-! The ring commands, the descriptor writes and the other register writes that store or clear fields: O3, O37 to
O45. -/

namespace Sys2Proof.Machine

/-! ## A complete write of a ring control block's register -/

section
variable (s : State) (r : RingNo) (v : Word)

theorem State.writeReg_structural (g : StructuralReg) :
    s.writeReg (.structural r g) v = s.whileRunning fun s => s.writeStructural r g v := rfl

theorem State.writeReg_live (g : LiveReg) :
    s.writeReg (.live r g) v = s.whileRunning fun s => s.writeLive r g v := rfl

theorem State.writeReg_command :
    s.writeReg (.command r) v = s.whileRunning fun s => s.takeCommand r (v.extractLsb' 0 4) := rfl

theorem State.writeReg_fillCounter (c : FillCounter) :
    s.writeReg (.fillCounter r c) v = s.whileRunning fun s => s.zeroFillCounter r c := rfl

theorem State.writeReg_lateCounter :
    s.writeReg (.lateCounter r) v = s.whileRunning fun s => s.zeroLateCounter r := rfl

end

section
variable {s : State} (r : RingNo) (h0 : s.inReset = false)
include h0

/-- A register of a ring control block takes its write while the part is RUNNING (R166). -/
theorem State.writeAt_control {reg : Reg} {v : Word} {o : Nat} {f : State → State} (running : s.part = .running)
    (writes : s.writeReg reg v = s.whileRunning f) (address : reg.address = controlAddress r o) :
    s.writeAt reg v = (f s).acknowledge (controlAddress r (o + 4)) := by
  rw [State.writeAt_of_running s reg v h0, writes, State.whileRunning_running s f running, address,
    controlAddress_add_four]

/-- While RESETTING a write to it sets LOCKED and does nothing else (R166). -/
theorem State.writeAt_control_locked {reg : Reg} {v : Word} {o : Nat} {f : State → State}
    (resetting : s.part = .resetting) (writes : s.writeReg reg v = s.whileRunning f)
    (address : reg.address = controlAddress r o) :
    s.writeAt reg v = (s.setFlags { s.mgmt.flags with locked := true }).acknowledge (controlAddress r (o + 4)) := by
  rw [State.writeAt_of_running s reg v h0, writes, State.whileRunning_resetting s f resetting, address,
    controlAddress_add_four]
  rfl

/-- Any code written to the command register while RESETTING. -/
theorem State.writeAt_command_locked (v : Word) (resetting : s.part = .resetting) :
    s.writeAt (.command r) v
      = (s.setFlags { s.mgmt.flags with locked := true }).acknowledge (controlAddress r 0x28) :=
  State.writeAt_control_locked r h0 resetting (State.writeReg_command s r v) rfl

section
variable (running : s.part = .running)
include running

theorem exec_enable : exec (.enable r) s = .next ((s.takeEnable r).acknowledge (controlAddress r 0x28)) :=
  congrArg Host.Outcome.next (s.writeAt_command r 1 h0 running)

theorem exec_pause : exec (.pause r) s = .next ((s.takePause r).acknowledge (controlAddress r 0x28)) :=
  congrArg Host.Outcome.next (s.writeAt_command r 2 h0 running)

theorem exec_resume : exec (.resume r) s = .next ((s.takeResume r).acknowledge (controlAddress r 0x28)) :=
  congrArg Host.Outcome.next (s.writeAt_command r 3 h0 running)

theorem exec_halt : exec (.halt r) s = .next ((s.takeHalt r).acknowledge (controlAddress r 0x28)) :=
  congrArg Host.Outcome.next (s.writeAt_command r 4 h0 running)

theorem exec_clear : exec (.clear r) s = .next ((s.takeClear r).acknowledge (controlAddress r 0x28)) :=
  congrArg Host.Outcome.next (s.writeAt_command r 5 h0 running)

theorem exec_applyNow : exec (.applyNow r) s = .next ((s.takeApplyNow r).acknowledge (controlAddress r 0x28)) :=
  congrArg Host.Outcome.next (s.writeAt_command r 6 h0 running)

theorem exec_snapshot : exec (.snapshot r) s = .next ((s.takeSnapshot r).acknowledge (controlAddress r 0x28)) :=
  congrArg Host.Outcome.next (s.writeAt_command r 7 h0 running)

/-- A code that names no command is answered REFUSED_STATE (R28). -/
theorem exec_undefinedCommand {code : BitVec 4} (undefined : code = 0 ∨ 8 ≤ code.toNat) :
    exec (.undefinedCommand r code) s
      = .next ((s.setOutcome r .refusedState).acknowledge (controlAddress r 0x28)) := by
  have same : (code.setWidth 32).extractLsb' 0 4 = code := by
    apply BitVec.eq_of_toNat_eq
    simp
    omega
  have names_none : code.toNat = 0 ∨ 8 ≤ code.toNat := undefined.imp_left fun zero => by rw [zero]; rfl
  have refused : s.takeCommand r code = s.setOutcome r .refusedState := by
    unfold State.takeCommand
    split
    case h_8 => rfl
    all_goals omega
  show Host.Outcome.next (s.writeAt (.command r) (code.setWidth 32)) = _
  rw [State.writeAt_command s r _ h0 running, same, refused]

end
end

/-! ## ENABLE -/

/-- The checks MARKS, TIMEOUT and QUOTA, each as R22 and R26 word it. -/
theorem Live.refusal_eq (l : Live) (C : Nat) :
    l.refusal C =
      if l.highMark.toNat = 0 ∨ C < l.highMark.toNat ∨ ¬ l.lowMark.toNat < l.highMark.toNat then some .marks
      else if l.holdTimeout = 0 ∧ (l.underrun = .wait ∨ l.overrun = .block) then some .timeout
      else if 32 < l.holdQuota.toNat then some .quota
      else none := by
  unfold Live.refusal
  simp only [not_lt]

theorem State.takeEnable_refused {s : State} {r : RingNo} (off : (s.ring r).state = .off) {reason : ConfigReason}
    (refused : s.enableRefusal r = some reason) : s.takeEnable r = s.setOutcome r (.refusedConfig reason) := by
  simp only [State.takeEnable, off, refused, if_true]

theorem State.takeEnable_passes {s : State} {r : RingNo} (off : (s.ring r).state = .off)
    (passes : s.enableRefusal r = none) : s.takeEnable r = s.setRing r (s.ring r).enabled := by
  simp only [State.takeEnable, off, passes, if_true]

/-- Settles O37: the model's checks are R26's in their order, and each outcome of theirs decides what ENABLE does. -/
theorem enableChecksAndActivates : Obligations.EnableChecksAndActivates := by
  intro s r h0 running off
  have refused {reason : ConfigReason} (h : s.enableRefusal r = some reason) : exec (.enable r) s = .next
      ((s.setRing r { s.ring r with outcome := .refusedConfig reason }).acknowledge (controlAddress r 0x28)) := by
    rw [exec_enable r h0 running, State.takeEnable_refused off h]
    rfl
  have checks := s.enableRefusal_eq r
  rw [Live.refusal_eq] at checks
  refine ⟨fun align => refused ?_, fun align size => refused ?_, fun align size aperture => refused ?_,
    fun align size aperture span => refused ?_, fun align size aperture span marks => refused ?_,
    fun align size aperture span marks timeout => refused ?_,
    fun align size aperture span marks timeout quota => refused ?_,
    fun align size aperture span marks timeout quota => ?_⟩
  · rw [checks, if_pos align]
  · rw [checks, if_neg align, if_pos size]
  · rw [checks, if_neg align, if_neg size, if_pos aperture]
  · rw [checks, if_neg align, if_neg size, if_neg aperture, if_pos span]
  · rw [checks, if_neg align, if_neg size, if_neg aperture, if_neg span, if_pos marks]
  · rw [checks, if_neg align, if_neg size, if_neg aperture, if_neg span, if_neg marks, if_pos timeout]
  · rw [checks, if_neg align, if_neg size, if_neg aperture, if_neg span, if_neg marks, if_neg timeout, if_pos quota]
  · rw [if_neg align, if_neg size, if_neg aperture, if_neg span, if_neg marks, if_neg timeout, if_neg quota] at checks
    rw [exec_enable r h0 running, State.takeEnable_passes off checks]
    rfl

/-- Settles O3: the aperture size exponent 0 is below 20. -/
theorem hardwareResetSetsRings : Obligations.HardwareResetSetsRings := by
  intro a1 a0 s
  refine ⟨_, rfl, fun r => ?_⟩
  generalize reset : ({ State.reset with
    mgmt := { Management.reset with i2cAddress := i2cAddressOf a1 a0 }
    freeCount := s.freeCount
    pending := s.pending } : State) = t
  have ring : t.ring r = .reset := by
    subst reset
    simp [State.reset, State.ring]
  have pool : t.pool.entries = [] := by
    subst reset
    rfl
  have size : t.enableRefusal r = some .size := by
    rw [State.enableRefusal_eq, if_neg (by rw [ring]; decide), if_pos (by rw [ring]; decide)]
  rw [ring, pool, size]
  exact ⟨rfl, rfl, rfl, rfl, rfl, rfl, rfl, rfl, rfl, rfl, rfl, rfl, by simp, rfl, rfl, rfl, rfl, rfl, rfl, rfl⟩

/-! ## PAUSE, RESUME, HALT -/

theorem Ring.fillInFlight_iff (x : Ring) : x.fillInFlight = true ↔ ∃ e ∈ x.fill, e.state = .inFlight := by
  simp [Ring.fillInFlight]

theorem Ring.not_fillInFlight_iff (x : Ring) : x.fillInFlight = false ↔ ∀ e ∈ x.fill, e.state ≠ .inFlight := by
  simp [Ring.fillInFlight]

/-- A drain ends with no write in flight (R31). -/
theorem State.testDrainEnd_drained {s : State} {r : RingNo} (draining : (s.ring r).state = .draining)
    (drained : ∀ e ∈ (s.ring r).fill, e.state ≠ .inFlight) :
    s.testDrainEnd r
      = (s.setRing r { s.ring r with state := .paused }).raise r .paused (some (s.ring r).F) .absent :=
  if_pos ⟨draining, (Ring.not_fillInFlight_iff _).mpr drained⟩

theorem State.testDrainEnd_stays {s : State} {r : RingNo}
    (stays : (s.ring r).state ≠ .draining ∨ ∃ e ∈ (s.ring r).fill, e.state = .inFlight) : s.testDrainEnd r = s := by
  refine if_neg fun ⟨draining, drained⟩ => ?_
  rcases stays with other | flying
  · exact other draining
  · rw [(Ring.fillInFlight_iff _).mpr flying] at drained
    cases drained

theorem pauseAnswer_eq : pauseAnswer = fun h => if h.reason = .room then .stopped else .empty := by
  funext h
  cases reason : h.reason <;> simp [pauseAnswer, reason]

/-- Settles O38: PAUSE answers the hold list of a ring that it has made DRAINING, and then makes the test of
DRAIN_END. -/
theorem pauseBeginsDrain : Obligations.PauseBeginsDrain := by
  refine ⟨fun s r h0 running active => ?_, fun s r h0 => ?_⟩
  · dsimp only
    rw [exec_pause r h0 running, ← pauseAnswer_eq]
    generalize held : (s.setRing r { s.ring r with state := .draining, outcome := .accepted }).answerHoldList r
      pauseAnswer = t
    have taken : s.takePause r = t.testDrainEnd r := by
      rw [← held]
      exact if_pos active
    have ring : t.ring r = { s.ring r with state := .draining, outcome := .accepted } := by
      rw [← held, State.ring_answerHoldList, State.ring_setRing_self]
    rw [taken]
    refine ⟨fun flying => ?_, fun drained => ?_⟩
    · rw [State.testDrainEnd_stays (Or.inr (by rwa [ring]))]
    · rw [State.testDrainEnd_drained (by rw [ring]) (by rwa [ring]), ring]
  · simp only [exec, execDrainEnd, State.outOfReset_of h0]
    exact ⟨fun draining drained => congrArg _ (State.testDrainEnd_drained draining drained),
      fun stays => congrArg _ (State.testDrainEnd_stays stays)⟩

/-- No write is answered STOPPED or HALTED in ACTIVE (R45). -/
theorem judgeWrite_of_active {x : Ring} (active : x.state = .active) (master : MasterNo) (e : Extent) :
    judgeWrite x master e ≠ .answer .stopped ∧ judgeWrite x master e ≠ .answer .halted := by
  unfold judgeWrite
  rw [if_neg (not_not.mpr active)]
  repeat' split
  all_goals simp

/-- No consuming read is answered EMPTY in ACTIVE under WAIT: it is held (R73). -/
theorem judgeRead_of_wait {x : Ring} (active : x.state = .active) (wait : x.active.underrun = .wait) (e : Extent) :
    judgeRead x .consume e ≠ .answer .empty := by
  unfold judgeRead
  rw [if_pos (show RequestClass.consume = .consume ∧ x.active.underrun = .wait ∧ x.state = .active from
    ⟨rfl, wait, active⟩)]
  repeat' split
  all_goals simp

/-- Settles O39: RESUME changes the state and the outcome alone, and the checks of R45 and R73 answer by the state only
in other states than ACTIVE. -/
theorem resumeReturnsToActive : Obligations.ResumeReturnsToActive := by
  intro s r h0 running resumed
  refine ⟨fun paused => ?_, fun other => ?_, judgeWrite_of_active rfl, fun e wait => judgeRead_of_wait rfl wait e⟩
  · rw [exec_resume r h0 running, State.takeResume, if_pos paused]
  · rw [exec_resume r h0 running, State.takeResume, if_neg other]
    rfl

/-- What a ring's entry into HALTED is (R33, R35, R105). -/
theorem State.enterHalted_eq (s : State) (r : RingNo) :
    s.enterHalted r = ((s.setRing r { s.ring r with state := .halted }).answerHoldList r fun _ => .halted).raise r
      .halted (some (s.ring r).F) .absent := by
  simp only [State.enterHalted, State.ring_answerHoldList, State.ring_setRing_self]

theorem State.takeHalt_of {s : State} {r : RingNo}
    (moving : (s.ring r).state = .active ∨ (s.ring r).state = .draining ∨ (s.ring r).state = .paused) :
    s.takeHalt r = (s.setOutcome r .accepted).enterHalted r := by
  unfold State.takeHalt
  rcases moving with state | state | state <;> rw [state]

/-- Settles O40: HALT is the entry into HALTED with the status ACCEPTED. -/
theorem haltFreezesRing : Obligations.HaltFreezesRing := by
  intro s r h0 running moving
  rw [exec_halt r h0 running, State.takeHalt_of moving, State.enterHalted_eq, State.setOutcome,
    State.ring_setRing_self, State.setRing_setRing]

/-! ## CLEAR -/

/-- The clear-end test of a CLEARING ring with nothing left (R37). -/
theorem State.testClearEnd_ends {s : State} {r : RingNo} (clearing : (s.ring r).state = .clearing)
    (idle : s.ringBusy r = false) :
    s.testClearEnd r = ((s.setRing r (s.ring r).endClear).markCleared r).raise r .cleared none .absent :=
  if_pos ⟨clearing, idle⟩

theorem State.testClearEnd_stays {s : State} {r : RingNo}
    (stays : (s.ring r).state ≠ .clearing ∨ s.ringBusy r = true) : s.testClearEnd r = s := by
  refine if_neg fun ⟨clearing, idle⟩ => ?_
  rcases stays with other | busy
  · exact other clearing
  · rw [busy] at idle
    cases idle

theorem Ring.endClear_eq (x : Ring) : x.endClear = { x with
    fill := [], drain := [], poison := []
    discardCount := 0, overtakeCount := 0, lateCount := 0
    active := if x.pending then x.shadow else x.active
    pending := false, state := .off } := by
  unfold Ring.endClear
  cases pending : x.pending with
  | true => rfl
  | false => simp [pending]

/-- An offered record depends on the event queue and on the line enables alone (R127, R130). -/
theorem State.offer_events_congr {s t : State} (events : s.events = t.events)
    (enables : s.mgmt.lineEnables = t.mgmt.lineEnables) (k : EventKind) (o : Option RingNo) (line : BitVec 2)
    (p : Option Nat) (c : EventCount) : (s.offer k o line p c).events = (t.offer k o line p c).events := by
  unfold State.offer State.refreshLines
  rw [events]
  split
  · simp only [enables]
  · rfl

/-- A raised event depends, beside these, on the ring's active set alone (R125). -/
theorem State.raise_events_congr {s t : State} {r : RingNo} (events : s.events = t.events)
    (enables : s.mgmt.lineEnables = t.mgmt.lineEnables) (active : (s.ring r).active = (t.ring r).active)
    (k : EventKind) (p : Option Nat) (c : EventCount) : (s.raise r k p c).events = (t.raise r k p c).events := by
  unfold State.raise
  rw [active]
  split
  · exact State.offer_events_congr events enables _ _ _ _ _
  · exact events

/-- CLEAR in a ring that is neither OFF nor CLEARING: the hold list is answered ABORTED and the clear begins (R36). -/
theorem State.takeClear_of {s : State} {r : RingNo}
    (on : (s.ring r).state = .active ∨ (s.ring r).state = .draining ∨ (s.ring r).state = .paused
      ∨ (s.ring r).state = .halted) :
    s.takeClear r = ((s.answerHoldList r fun _ => .aborted).setRing r
      { s.ring r with state := .clearing, outcome := .accepted }).testClearEnd r := by
  have begins : s.takeClear r = s.beginClear r := by
    unfold State.takeClear
    rcases on with state | state | state | state <;> rw [state]
  rw [begins, State.beginClear, State.ring_answerHoldList]

theorem State.takeClear_off {s : State} {r : RingNo} (off : (s.ring r).state = .off) :
    s.takeClear r = s.setOutcome r .accepted := by
  unfold State.takeClear
  rw [off]

/-- Settles O41: CLEAR answers the hold list and then makes the test of CLEAR_END, and an answer keeps the ring of every
operation's request. -/
theorem clearAnswersAndEnds : Obligations.ClearAnswersAndEnds := by
  unfold Obligations.ClearAnswersAndEnds
  intro left
  have left_iff : ∀ s r, left s r ↔ s.ringBusy r = true := fun s r => (s.ringBusy_iff r).symm
  have execs {s : State} {r : RingNo} (h0 : s.inReset = false) : exec (.clearEnd r) s = .next (s.testClearEnd r) := by
    simp only [exec, execClearEnd, State.outOfReset_of h0]
  refine ⟨fun s r h0 running => ?_, fun s r h0 => ?_⟩
  · dsimp only
    generalize clearing_eq : (s.answerHoldList r fun _ => .aborted).setRing r
      { s.ring r with state := .clearing, outcome := .accepted } = clearing
    have ring : clearing.ring r = { s.ring r with state := .clearing, outcome := .accepted } := by
      rw [← clearing_eq, State.ring_setRing_self]
    have reset : clearing.inReset = false := by
      rw [← clearing_eq]
      simpa using h0
    have busy : clearing.ringBusy r = s.ringBusy r := by
      rw [← clearing_eq]
      exact State.ringBusy_congr r (by simp) fun u => State.ringOf_answerHeld s _ _ u
    refine ⟨fun off => ?_, fun on => ⟨fun some_left => ?_, fun none_left => ?_⟩⟩
    · rw [exec_clear r h0 running, State.takeClear_off off]
      rfl
    · rw [left_iff] at some_left
      rw [exec_clear r h0 running, State.takeClear_of on, clearing_eq,
        State.testClearEnd_stays (Or.inr (busy.trans some_left))]
    · rw [left_iff, Bool.not_eq_true] at none_left
      refine ⟨clearing.testClearEnd r, execs reset, ?_, ?_⟩
      · rw [State.ring_testClearEnd, ring, if_pos ⟨rfl, rfl, busy.trans none_left⟩]
        rfl
      · rw [exec_clear r h0 running, State.takeClear_of on, clearing_eq]
  · dsimp only
    rw [left_iff, execs h0]
    refine ⟨fun stays => by rw [State.testClearEnd_stays stays], fun clearing idle => ⟨_, rfl, ?_⟩⟩
    rw [Bool.not_eq_true] at idle
    have ring := fun q => s.ring_testClearEnd r q
    simp only [clearing, idle, and_true] at ring
    refine ⟨?_, fun q ne => (ring q).trans (if_neg ne), ?_, ?_, fun u => ?_, ?_⟩
    · exact State.eq_of_fields (by simp) (by simp) (by simp) (by simp) rfl (by simp) (by simp) rfl (by simp) rfl
        (by simp) (by simp)
    · rw [ring, if_pos rfl, Ring.endClear_eq]
    · rw [State.testClearEnd_ends clearing idle, State.raise_sys]
      rfl
    · rw [State.testClearEnd_ends clearing idle, State.txn_raise, State.txn_markCleared]
      rfl
    · rw [ring, if_pos rfl, State.testClearEnd_ends clearing idle]
      exact State.raise_events_congr (by simp) (by simp) (by simp) _ _ _

/-! ## The shadow set -/

theorem Live.refusal_none {l : Live} {C : Nat}
    (marks : ¬ (l.highMark.toNat = 0 ∨ C < l.highMark.toNat ∨ ¬ l.lowMark.toNat < l.highMark.toNat))
    (timeout : ¬ (l.holdTimeout = 0 ∧ (l.underrun = .wait ∨ l.overrun = .block)))
    (quota : ¬ 32 < l.holdQuota.toNat) : l.refusal C = none := by
  rw [Live.refusal_eq, if_neg marks, if_neg timeout, if_neg quota]

/-- The first of the three checks that fails gives the reason (R22). -/
theorem Live.refusal_some {l : Live} {C : Nat} {reason : ConfigReason}
    (fails : (reason = .marks ∧ (l.highMark.toNat = 0 ∨ C < l.highMark.toNat ∨ ¬ l.lowMark.toNat < l.highMark.toNat))
      ∨ (reason = .timeout
        ∧ ¬ (l.highMark.toNat = 0 ∨ C < l.highMark.toNat ∨ ¬ l.lowMark.toNat < l.highMark.toNat)
        ∧ l.holdTimeout = 0 ∧ (l.underrun = .wait ∨ l.overrun = .block))
      ∨ (reason = .quota
        ∧ ¬ (l.highMark.toNat = 0 ∨ C < l.highMark.toNat ∨ ¬ l.lowMark.toNat < l.highMark.toNat)
        ∧ ¬ (l.holdTimeout = 0 ∧ (l.underrun = .wait ∨ l.overrun = .block)) ∧ 32 < l.holdQuota.toNat)) :
    l.refusal C = some reason := by
  rw [Live.refusal_eq]
  rcases fails with ⟨rfl, marks⟩ | ⟨rfl, marks, timeout⟩ | ⟨rfl, marks, timeout, quota⟩
  · rw [if_pos marks]
  · rw [if_neg marks, if_pos timeout]
  · rw [if_neg marks, if_neg timeout, if_pos quota]

/-- An immediate apply that passes the checks (R21, R23). -/
theorem State.applyImmediately_passes {s : State} {r : RingNo} (passes : (s.ring r).shadowRefusal = none) :
    s.applyImmediately r = (s.setRing r (s.ring r).applyShadow).evaluateLevel r := by
  simp only [State.applyImmediately, Ring.attemptApply, passes, if_true]

theorem State.applyImmediately_refused {s : State} {r : RingNo} {reason : ConfigReason}
    (refused : (s.ring r).shadowRefusal = some reason) :
    s.applyImmediately r = s.setRing r { s.ring r with pending := true, outcome := .refusedConfig reason } := by
  simp only [State.applyImmediately, Ring.attemptApply, refused, reduceCtorEq, if_false]

/-- A write to a live register, by the state of its ring (R21). -/
theorem State.writeLive_off {s : State} {r : RingNo} (off : (s.ring r).state = .off) (g : LiveReg) (v : Word) :
    s.writeLive r g v = s.setRing r { s.ring r with
      shadow := (s.ring r).shadow.write g v, active := (s.ring r).shadow.write g v } := by
  unfold State.writeLive
  dsimp only
  rw [off]

theorem State.writeLive_pends {s : State} {r : RingNo}
    (state : (s.ring r).state = .active ∨ (s.ring r).state = .draining ∨ (s.ring r).state = .clearing)
    (g : LiveReg) (v : Word) :
    s.writeLive r g v = s.setRing r { s.ring r with shadow := (s.ring r).shadow.write g v, pending := true } := by
  unfold State.writeLive
  dsimp only
  rcases state with state | state | state <;> rw [state]

theorem State.writeLive_immediate {s : State} {r : RingNo}
    (state : (s.ring r).state = .paused ∨ (s.ring r).state = .halted) (g : LiveReg) (v : Word) :
    s.writeLive r g v
      = (s.setRing r { s.ring r with shadow := (s.ring r).shadow.write g v }).applyImmediately r := by
  unfold State.writeLive
  dsimp only
  rcases state with state | state <;> rw [state]

theorem State.takeApplyNow_refused {s : State} {r : RingNo} (on : (s.ring r).state ≠ .off)
    (pending : (s.ring r).pending = true) {reason : ConfigReason}
    (refused : (s.ring r).shadowRefusal = some reason) :
    s.takeApplyNow r = s.setOutcome r (.refusedConfig reason) := by
  simp only [State.takeApplyNow, on, pending, refused, reduceCtorEq, if_false]

theorem State.takeApplyNow_passes {s : State} {r : RingNo} (on : (s.ring r).state ≠ .off)
    (pending : (s.ring r).pending = true) (passes : (s.ring r).shadowRefusal = none) :
    s.takeApplyNow r = s.applyOnCommand r := by
  simp only [State.takeApplyNow, on, pending, passes, reduceCtorEq, if_false]

/-- What an apply on command does, with the state and F of the ring as they stay (R23, R38). -/
theorem State.applyOnCommand_eq (s : State) (r : RingNo) :
    s.applyOnCommand r =
      (if (s.ring r).state = .active then
        ((s.setRing r { (s.ring r).applyShadow with outcome := .accepted }).evaluateLevel r).releaseScan r fun _ => true
      else (s.setRing r { (s.ring r).applyShadow with outcome := .accepted }).evaluateLevel r).raise r .applied
        (some (s.ring r).F) .absent := by
  unfold State.applyOnCommand
  dsimp only
  rw [State.ring_evaluateLevel_self, State.ring_setRing_self]
  by_cases active : (s.ring r).state = .active
  · rw [if_pos (show (s.ring r).applyShadow.state = .active from active), if_pos active, State.ring_releaseScan,
      State.ring_evaluateLevel_self, State.ring_setRing_self]
    rfl
  · rw [if_neg (show ¬ (s.ring r).applyShadow.state = .active from active), if_neg active,
      State.ring_evaluateLevel_self, State.ring_setRing_self]
    rfl

/-- Settles O42: the write of a live register by the state of its ring, and APPLY_NOW by the pending flag, the checks of
R22 deciding in both. -/
theorem shadowSetIsApplied : Obligations.ShadowSetIsApplied := by
  refine ⟨fun s r g v h0 running => ?_, fun s r h0 running on => ?_⟩
  · have write : exec (.shadowWrite r g v) s
        = .next ((s.writeLive r g v).acknowledge (controlAddress r (liveOffset g + 4))) :=
      congrArg _ (State.writeAt_control r h0 running (State.writeReg_live s r v g) rfl)
    dsimp only
    rw [write]
    refine ⟨fun off => by rw [State.writeLive_off off], fun state => by rw [State.writeLive_pends state],
      fun state => ⟨fun ⟨marks, timeout, quota⟩ => ?_, fun reason fails => ?_⟩⟩
    · rw [State.writeLive_immediate state, State.applyImmediately_passes, State.ring_setRing_self,
        State.setRing_setRing]
      · rfl
      · rw [State.ring_setRing_self]
        exact Live.refusal_none marks timeout quota
    · rw [State.writeLive_immediate state, State.applyImmediately_refused, State.ring_setRing_self,
        State.setRing_setRing]
      rw [State.ring_setRing_self]
      exact Live.refusal_some fails
  · dsimp only
    rw [exec_applyNow r h0 running]
    refine ⟨fun idle => ?_, fun pending => ⟨fun reason fails => ?_, fun ⟨marks, timeout, quota⟩ => ?_⟩⟩
    · rw [State.takeApplyNow, if_neg on, if_pos idle]
      rfl
    · rw [State.takeApplyNow_refused on pending (Live.refusal_some fails)]
      rfl
    · rw [State.takeApplyNow_passes on pending (Live.refusal_none marks timeout quota), State.applyOnCommand_eq]
      exact ⟨fun active => by rw [if_pos active]; rfl, fun other => by rw [if_neg other]; rfl⟩

/-! ## SNAPSHOT -/

/-- Settles O43: `State.snapshotOf` reads the ring and the hold list as they stand. -/
theorem snapshotCopiesRing : Obligations.SnapshotCopiesRing := by
  intro s r h0 running
  dsimp only
  rw [exec_snapshot r h0 running, ← List.countP_eq_length_filter]
  rfl

/-! ## Writes that are turned away -/

theorem State.takeHalt_refused {s : State} {r : RingNo}
    (state : (s.ring r).state = .off ∨ (s.ring r).state = .halted ∨ (s.ring r).state = .clearing) :
    s.takeHalt r = s.setOutcome r .refusedState := by
  unfold State.takeHalt
  rcases state with state | state | state <;> rw [state]

/-- Settles O44: each command's first test is of the ring's state, and a write while RESETTING comes to no register. -/
theorem turnedAwayWritesChangeNothingElse : Obligations.TurnedAwayWritesChangeNothingElse := by
  intro s r h0
  refine ⟨fun running => ?_, fun resetting => ?_⟩
  · have turned {t : State} (refused : t = s.setOutcome r .refusedState) :
        (.next (t.acknowledge (controlAddress r 0x28)) : Host.Outcome State Fault Refusal) = .next
          ((s.setRing r { s.ring r with outcome := .refusedState }).acknowledge (controlAddress r 0x28)) := by
      rw [refused]
      rfl
    refine ⟨fun on => ?_, fun other => ?_, fun other => ?_, fun state => ?_, fun clearing => ?_, fun off => ?_,
      fun code undefined => ?_⟩
    · exact (exec_enable r h0 running).trans (turned (if_neg on))
    · exact (exec_pause r h0 running).trans (turned (if_neg other))
    · exact (exec_resume r h0 running).trans (turned (if_neg other))
    · exact (exec_halt r h0 running).trans (turned (State.takeHalt_refused state))
    · exact (exec_clear r h0 running).trans (turned (by rw [State.takeClear, clearing]))
    · exact (exec_applyNow r h0 running).trans (turned (if_pos off))
    · exact (exec_undefinedCommand r h0 running undefined).trans (turned rfl)
  · have command (v : Word) := congrArg (Host.Outcome.next (φ := Fault) (ρ := Refusal))
      (State.writeAt_command_locked r h0 v resetting)
    refine ⟨fun c named => ?_, fun g v => ?_, fun g v => ?_, fun g v => ?_, fun v => ?_⟩
    · rcases named with rfl | rfl | rfl | rfl | rfl | rfl | rfl | ⟨code, rfl⟩
      all_goals exact command _
    · exact congrArg _ (State.writeAt_control_locked r h0 resetting (State.writeReg_structural s r v g) rfl)
    · exact congrArg _ (State.writeAt_control_locked r h0 resetting (State.writeReg_live s r v g) rfl)
    · exact congrArg _ (State.writeAt_control_locked r h0 resetting (State.writeReg_fillCounter s r v g) rfl)
    · exact congrArg _ (State.writeAt_control_locked r h0 resetting (State.writeReg_lateCounter s r v) rfl)

/-! ## Register writes -/

/-- Settles O45: the write of each register is its operation, and the address after it the next register's. -/
theorem registerWritesStoreTheirFields : Obligations.RegisterWritesStoreTheirFields := by
  intro s h0
  have write (reg : Reg) (v : Word) := congrArg (Host.Outcome.next (φ := Fault) (ρ := Refusal))
    (State.writeAt_of_running s reg v h0)
  refine ⟨fun running r => ?_, write .control 0x2, write .errorFlags, write .divider, write .memoryTimeout,
    write .passFault, fun v => ?_⟩
  · have structural (g : StructuralReg) (v : Word) : exec (.structuralWrite r g v) s
        = .next ((s.writeStructural r g v).acknowledge (controlAddress r (structuralOffset g + 4))) :=
      congrArg _ (State.writeAt_control r h0 running (State.writeReg_structural s r v g) rfl)
    refine ⟨fun g v off => ?_, fun g v on => ?_, fun v => ?_, fun v => ?_, fun v => ?_⟩
    · rw [structural, State.writeStructural, if_pos off]
    · rw [structural, State.writeStructural, if_neg on]
      rfl
    · exact congrArg _ (State.writeAt_control r h0 running (State.writeReg_fillCounter s r v .discard) rfl)
    · exact congrArg _ (State.writeAt_control r h0 running (State.writeReg_fillCounter s r v .overtake) rfl)
    · exact congrArg _ (State.writeAt_control r h0 running (State.writeReg_lateCounter s r v) rfl)
  · refine ⟨lineLevels s.events.records (v.extractLsb' 0 4), fun n hn => ?_, write .lineEnables v⟩
    rw [lineLevels_bit _ _ hn]
    simp [hn]

end Sys2Proof.Machine
end

section
/-! The last end of a ring request by response: the report to its owner, and the end of a ring read (O32). -/

namespace Sys2Proof.Machine

/-! ## The last end -/

section
variable {s : State} {o : Outstanding} {x : Txn} {r : RingNo} {id : BitVec 6} {status : MemoryStatus}
  {data : List Byte}

/-- The state in which an operation's end finds its request: the id free, the end of the part recorded (R157, R160). -/
def State.recordEnd (s : State) (o : Outstanding) (x : Txn) : State :=
  (s.freeOperation o.id).setTxn o.transaction (some x)

theorem Txn.endPart_read (x : Txn) (one : x.outstanding = 1) (read : o.direction = .read) :
    x.endPart o.part (o.endBy status data) = { x with
      parts := x.parts.modify o.part.index fun p =>
        { p with result := if status = .ok then .ok else .failed, data := if status = .ok then data else [] }
      outstanding := 0 } := by
  simp only [Txn.endPart, Part.ended_endBy, read, and_true, one]

theorem Txn.endPart_write (x : Txn) (one : x.outstanding = 1) (write : o.direction = .write) :
    x.endPart o.part (o.endBy status data) = { x with
      parts := x.parts.modify o.part.index fun p =>
        { p with result := if status = .ok then .ok else .failed, data := [] }
      outstanding := 0 } := by
  simp only [Txn.endPart, Part.ended_endBy, write, reduceCtorEq, and_false, if_false, one]

/-- A response to the last live operation of a ring request: the request ends, and the two tests follow (R13, R160). -/
theorem exec_memoryResponse_last (h0 : s.inReset = false) (distinct : (s.mem.outstanding.map Outstanding.id).Nodup)
    (member : o ∈ s.mem.outstanding) (names : o.id.val = id.toNat) (live : o.condition = .live)
    (txn : s.txn o.transaction = some x) (ring : x.ring = some r)
    (length : o.direction = .read → status = .ok → data.length = o.length) {y : Txn}
    (ended : x.endPart o.part (o.endBy status data) = y) (last : y.outstanding = 0) :
    exec (.memoryResponse id status data) s = .next
      (((s.recordEnd o y).endRingRequest r o.transaction y).testClearEnd r).testResetCompletion := by
  simp only [exec, execMemoryResponse, State.outOfReset_of h0]
  rw [s.takeResponse_live distinct member names live length,
    State.reportEnd_ring _ ((s.txn_freeOperation _ _).trans txn) ring, ended, if_pos last]
  rfl

/-- The clear-end test and the completion test that follow an end are the two rows that make the tests alone, and do
nothing in a part that is RUNNING to a ring that is not CLEARING (R37, R172). -/
theorem State.tests_after_end {s t : State} {r : RingNo} {c : Instr} (h0 : t.inReset = false)
    (next : exec c s = .next (t.testClearEnd r).testResetCompletion) :
    ∃ u v, exec (.clearEnd r) t = .next u ∧ exec .partResetCompletion u = .next v ∧ exec c s = .next v
      ∧ (t.part = .running → (t.ring r).state ≠ .clearing → v = t) := by
  have h1 : (t.testClearEnd r).inReset = false := (State.testClearEnd_inReset t r).trans h0
  refine ⟨t.testClearEnd r, (t.testClearEnd r).testResetCompletion, ?_, ?_, next, fun running other => ?_⟩
  · exact congrArg Host.Outcome.next (State.outOfReset_of h0 _)
  · exact congrArg Host.Outcome.next (State.outOfReset_of h1 _)
  rw [State.testClearEnd_stays (Or.inl other), State.testResetCompletion_of_running _ running]

/-- The request of an end is answered (R141, R146). -/
theorem State.answer_recordEnd (s : State) (o : Outstanding) (x : Txn) (a : Status) (d : List Byte) :
    (s.recordEnd o x).answer o.transaction a d = { s with
      mem := { s.mem with outstanding := s.mem.outstanding.filter fun p => p.id ≠ o.id }
      sys := { s.sys with
        table := s.sys.table.set o.transaction.val (some { x with stage := .ready, status := some a, data := d })
        readyOrder := s.sys.readyOrder ++ [o.transaction] } } := by
  unfold State.recordEnd State.answer
  simp only [State.txn_setTxn_self, State.setTxn_setTxn]
  rfl

end

/-! ## The end of a ring read -/

theorem HoldReason.isRoom_eq : HoldReason.isRoom = fun w => decide (w = .room) := by
  funext w
  cases w <;> rfl

theorem carriesInFlight_eq (u : TxnNo) (entries : List ScoreEntry) :
    carriesInFlight u entries = entries.any fun e => e.state = .inFlight ∧ u ∈ e.transactions := by
  simp [carriesInFlight]

/-- One absorption of the drain side of a ring that was just set (R86). -/
theorem State.absorbReads_setRing (s : State) (r : RingNo) (x : Ring) :
    (s.setRing r x).absorbReads r =
      let a := absorbDrain x.D x.drain
      let absorbed := s.setRing r { x with D := a.2, drain := a.1 }
      if a.2 = x.D then absorbed
      else if x.state = .active then (absorbed.evaluateLevel r).releaseScan r fun w => decide (w = .room)
      else absorbed.evaluateLevel r := by
  simp only [State.absorbReads, State.ring_setRing_self, State.setRing_setRing, State.ring_evaluateLevel_self,
    HoldReason.isRoom_eq]

/-- The end of a ring read, its cases side by side: a part failed, no entry left, the frontiers frozen, D absorbed
(R83, R84, R86, R110). -/
theorem State.endRead_eq (s : State) (r : RingNo) (u : TxnNo) (ok : Bool) (data : List Byte) :
    s.endRead r u ok data =
      let x := s.ring r
      let answered := s.answer u (if ok then .done else .fault) (if ok then data else [])
      let landed := mergeLanded (turnEntry u .landed x.drain)
      let a := absorbDrain x.D landed
      let absorbed := answered.setRing r { x with D := a.2, drain := a.1 }
      if ok = false then answered.setRing r { x with
        drain := x.drain.filter fun e => ¬ (e.state = .inFlight ∧ u ∈ e.transactions) }
      else if (x.drain.any fun e => e.state = .inFlight ∧ u ∈ e.transactions) = false then answered
      else if ¬ (x.state = .active ∨ x.state = .draining ∨ x.state = .paused) then
        answered.setRing r { x with drain := landed }
      else if a.2 = x.D then absorbed
      else if x.state = .active then (absorbed.evaluateLevel r).releaseScan r fun w => decide (w = .room)
      else absorbed.evaluateLevel r := by
  cases ok with
  | false => simp [State.endRead]
  | true =>
    simp only [State.endRead, ← carriesInFlight_eq, State.absorbReads_setRing, if_true, reduceCtorEq, if_false]
    cases carriesInFlight u (s.ring r).drain with
    | false => rfl
    | true =>
      by_cases moves : (s.ring r).state = .active ∨ (s.ring r).state = .draining ∨ (s.ring r).state = .paused
      · simp only [moves, if_true, not_true, reduceCtorEq, if_false]
      · simp only [moves, if_true, not_false_eq_true, reduceCtorEq, if_false]

/-- An end of a read answers its own request alone. -/
theorem State.txn_endRead (s : State) (r : RingNo) (u : TxnNo) (ok : Bool) (data : List Byte) (t : TxnNo) :
    (s.endRead r u ok data).txn t = (s.answer u (if ok then .done else .fault) (if ok then data else [])).txn t := by
  rw [State.endRead_eq]
  dsimp only
  (repeat' split) <;> simp

/-- An end of a read leaves the state of its ring. -/
theorem State.state_endRead (s : State) (r : RingNo) (u : TxnNo) (ok : Bool) (data : List Byte) :
    ((s.endRead r u ok data).ring r).state = (s.ring r).state := by
  rw [State.endRead_eq]
  dsimp only
  (repeat' split) <;> simp

/-- Settles O32: the report of the last end is the model's end of a ring read (`State.endRead_eq`). -/
theorem readEndAnswersAndAbsorbs : Obligations.ReadEndAnswersAndAbsorbs := by
  intro s o x r id status data h0 distinct member names live read txn reads ringOf one length ring parts ok found landed
    a answered absorbed evaluated done
  generalize y_eq : ({ x with parts := parts, outstanding := 0 } : Txn) = y
  have ended : x.endPart o.part (o.endBy status data) = y := (x.endPart_read one read).trans y_eq
  have next := exec_memoryResponse_last h0 distinct member names live txn ringOf (fun _ => length) ended
    (by rw [← y_eq])
  have answer : (s.recordEnd o y).answer o.transaction (if ok then .done else .fault)
      (if ok then parts.flatMap Part.data else []) = answered := by
    rw [State.answer_recordEnd, ← y_eq]
  have done_eq : (s.recordEnd o y).endRead r o.transaction ok (parts.flatMap Part.data) = done := by
    rw [State.endRead_eq, answer]
    rfl
  have direction : y.direction = .read := by rw [← y_eq, reads]
  have allOk : y.allOk = ok := by rw [← y_eq]; rfl
  have joined : y.joined = parts.flatMap Part.data := by rw [← y_eq]; rfl
  simp only [State.endRingRequest, direction, allOk, joined, done_eq] at next
  have fields : done = { s with
      rings := done.rings, pool := done.pool, sys := done.sys, mem := done.mem, events := done.events } := by
    rw [← done_eq]
    exact State.eq_of_fields (by simp; rfl) (by simp; rfl) (by simp; rfl) (by simp; rfl) rfl (by simp; rfl) rfl rfl rfl
      rfl (by simp; rfl) (by simp; rfl)
  have others : ∀ q, q ≠ r → done.ring q = s.ring q := fun q ne => by
    rw [← done_eq, State.ring_endRead_ne _ ne]
    rfl
  have state : (done.ring r).state = ring.state := by
    rw [← done_eq, State.state_endRead]
    rfl
  refine ⟨?_, fields, ?_, others, ?_⟩
  · obtain ⟨c, t, clearEnd, completion, response, stays⟩ :=
      State.tests_after_end ((congrArg State.inReset fields).trans h0) next
    exact ⟨c, t, clearEnd, completion, response, fun running other =>
      stays ((congrArg State.part fields).trans running) (by rwa [state])⟩
  · rw [← done_eq, State.txn_endRead, answer]
    exact Vector.getElem_set_self _
  · have self : ∀ z : Ring, (answered.setRing r z).ring r = z := answered.ring_setRing_self r
    by_cases failed : ok = false
    · rw [if_pos failed]
      have value : done = answered.setRing r { ring with
          drain := ring.drain.filter fun e => ¬ (e.state = .inFlight ∧ o.transaction ∈ e.transactions) } :=
        if_pos failed
      rw [value]
      exact ⟨self _, rfl, rfl⟩
    rw [if_neg failed]
    by_cases unfound : found = false
    · rw [if_pos unfound]
      have value : done = answered := (if_neg failed).trans (if_pos unfound)
      rw [value]
      rfl
    rw [if_neg unfound]
    by_cases moves : ring.state = .active ∨ ring.state = .draining ∨ ring.state = .paused
    · rw [if_pos moves]
      have value : done = if a.2 = ring.D then absorbed
          else if ring.state = .active then evaluated.releaseScan r fun w => decide (w = .room) else evaluated :=
        ((if_neg failed).trans (if_neg unfound)).trans (if_neg (not_not.mpr moves))
      have level : evaluated.ring r = { ring with D := a.2, drain := a.1, side := (evaluated.ring r).side } := by
        simp only [evaluated, absorbed, State.ring_evaluateLevel_self, self]
      rw [value]
      split
      · simp only [absorbed, self]
      split
      · rw [State.ring_releaseScan]
        exact level
      · exact level
    · rw [if_neg moves]
      have value : done = answered.setRing r { ring with drain := landed } :=
        ((if_neg failed).trans (if_neg unfound)).trans (if_pos moves)
      rw [value]
      exact self _

end Sys2Proof.Machine
end

section
/-! The last end of a ring write by response (O30): the entry lands, the fill side absorbs, the landing is completed. -/

namespace Sys2Proof.Machine

/-! ## The completion of a landing -/

/-- F has moved from `f0` over a lap boundary, with a shadow set pending, where the frontiers move (R20, R21). -/
abbrev Ring.AppliesFrom (x : Ring) (f0 : Nat) : Prop :=
  x.F ≠ f0 ∧ (x.state = .active ∨ x.state = .draining) ∧ x.pending = true ∧ IsLapBoundary x.structural f0 x.F

/-- The ring after the apply that is due when F has moved from `f0`, if one is. -/
def Ring.termedFrom (x : Ring) (f0 : Nat) : Ring := if x.AppliesFrom f0 then x.attemptApply else x

/-- The apply that is due and the one evaluation when F has moved from `f0`. -/
def State.evaluateLanding (s : State) (r : RingNo) (f0 : Nat) : State :=
  let x := s.ring r
  let applied := if x.AppliesFrom f0 then s.setRing r x.attemptApply else s
  if x.F ≠ f0 then applied.evaluateLevel r else applied

/-- A completion of a landing up to its drain-end test, every condition of its steps read off the ring it begins with
(`State.finishWriteEnd_eq`). -/
def State.reportLanding (s : State) (r : RingNo) (f0 : Nat) : State :=
  let x := s.ring r
  let evaluated := s.evaluateLanding r f0
  let scanned := if x.F ≠ f0 ∧ x.state = .active then evaluated.releaseScan r fun w => decide (w = .underrun)
    else evaluated
  if x.AppliesFrom f0 ∧ x.shadowRefusal = none then scanned.raise r .applied (some x.F) .absent else scanned

theorem HoldReason.isUnderrun_eq : HoldReason.isUnderrun = fun w => decide (w = .underrun) := by
  funext w
  cases w <;> rfl

/-- An apply attempt, by what the checks of the shadow set answer (R22). -/
theorem Ring.attemptApply_of {x : Ring} {refusal : Option ConfigReason} (checks : x.shadowRefusal = refusal) :
    x.attemptApply = match (generalizing := false) refusal with
      | none => { x with active := x.shadow, pending := false }
      | some reason => { x with pending := true, outcome := .refusedConfig reason } := by
  subst checks
  rfl

theorem Ring.termedFrom_eq {x : Ring} {refusal : Option ConfigReason} (checks : x.shadowRefusal = refusal) (f0 : Nat) :
    x.termedFrom f0 = { x with
      active := if x.AppliesFrom f0 ∧ refusal = none then x.shadow else x.active
      pending := if x.AppliesFrom f0 ∧ refusal = none then false else x.pending
      outcome := match (generalizing := false) refusal with
        | some reason => if x.AppliesFrom f0 then .refusedConfig reason else x.outcome
        | none => x.outcome } := by
  unfold Ring.termedFrom
  by_cases applies : x.AppliesFrom f0
  · rw [if_pos applies, Ring.attemptApply_of checks]
    cases refusal with
    | none => simp [applies]
    | some reason => simp [applies]
  · cases refusal <;> simp [applies]

theorem Ring.retermed_termedFrom (x : Ring) (f0 : Nat) : x.Retermed (x.termedFrom f0) := by
  unfold Ring.termedFrom
  split
  · exact x.retermed_attemptApply
  · exact .refl x

section
variable (s : State) (r : RingNo) (f0 : Nat)

theorem State.ring_evaluateLanding :
    (s.evaluateLanding r f0).ring r
      = { (s.ring r).termedFrom f0 with side := ((s.evaluateLanding r f0).ring r).side } := by
  unfold State.evaluateLanding
  extract_lets x applied
  have ring_applied : applied.ring r = x.termedFrom f0 := by
    simp only [applied, Ring.termedFrom]
    split
    · exact State.ring_setRing_self _ _ _
    · rfl
  split
  · rw [State.ring_evaluateLevel_self, ring_applied]
  · rw [ring_applied]

theorem State.retermed_evaluateLanding : (s.ring r).Retermed ((s.evaluateLanding r f0).ring r) := by
  obtain ⟨_, _, _, _, termed⟩ := (s.ring r).retermed_termedFrom f0
  rw [State.ring_evaluateLanding, termed]
  exact ⟨_, _, _, _, rfl⟩

/-- A release scan and a raised event write no ring. -/
theorem State.ring_reportLanding (q : RingNo) : (s.reportLanding r f0).ring q = (s.evaluateLanding r f0).ring q := by
  unfold State.reportLanding
  dsimp only
  (repeat' split) <;> simp

theorem State.finishWriteEnd_eq : s.finishWriteEnd r f0 = (s.reportLanding r f0).testDrainEnd r := by
  unfold State.finishWriteEnd State.reportLanding
  extract_lets x moved boundary takes s1 s2 s3 s4 evaluated scanned
  have moved_iff : moved = true ↔ x.F ≠ f0 := bne_iff_ne
  have applies_iff : boundary = true ↔ x.AppliesFrom f0 := by
    simp only [boundary, moved, Bool.and_eq_true, Bool.or_eq_true, bne_iff_ne, beq_iff_eq, decide_eq_true_eq,
      Ring.AppliesFrom]
    tauto
  have applied_eq : s1 = if x.AppliesFrom f0 then s.setRing r x.attemptApply else s := if_congr applies_iff rfl rfl
  have evaluated_eq : s2 = evaluated := by
    simp only [s2, applied_eq]
    exact if_congr moved_iff rfl rfl
  obtain ⟨_, _, _, _, ring⟩ : x.Retermed (evaluated.ring r) := s.retermed_evaluateLanding r f0
  have scanned_eq : s3 = scanned := by
    simp only [s3, evaluated_eq, HoldReason.isUnderrun_eq, ring]
    exact if_congr (by simp [moved]) rfl rfl
  have frontier : (scanned.ring r).F = x.F := by
    simp only [scanned]
    split <;> simp [ring]
  simp only [s4, scanned_eq, frontier]
  exact congrArg (State.testDrainEnd · r) (if_congr (by rw [Bool.and_eq_true, beq_iff_eq, applies_iff]) rfl rfl)

/-- What the completion of a landing leaves in the ring, but for the side of its level monitor. -/
theorem State.ring_finishWriteEnd_eq :
    (s.finishWriteEnd r f0).ring r = { (s.ring r).termedFrom f0 with
      state := if (s.ring r).state = .draining ∧ (s.ring r).fillInFlight = false then .paused else (s.ring r).state
      side := ((s.finishWriteEnd r f0).ring r).side } := by
  obtain ⟨_, _, _, _, termed⟩ := (s.ring r).retermed_termedFrom f0
  rw [State.finishWriteEnd_eq, State.ring_testDrainEnd_self, State.ring_reportLanding, State.ring_evaluateLanding,
    termed]
  rfl

end

/-! ## The absorption -/

/-- An absorption of the fill side up to the completion of the landing: the run is taken, each added poison entry
raised, and a refused extent makes the ring HALTED (R62, R112, R116). -/
def State.settleWrites (s : State) (r : RingNo) : State :=
  let x := s.ring r
  let a := absorbFill x.F x.poison x.fill
  let poisoned := a.added.foldl (fun (t : State) e =>
    t.raise r .poisoned (some e.start) (.bytes (distance x.A e.start e.stop)))
    (s.setRing r { x with fill := a.fill, F := a.F, poison := a.poison })
  if a.refused then poisoned.enterHalted r else poisoned

section
variable (s : State) (r : RingNo)

theorem State.ring_foldl_poisoned (A : Nat) (added : List Extent) (q : RingNo) :
    (added.foldl (fun (t : State) e => t.raise r .poisoned (some e.start) (.bytes (distance A e.start e.stop)))
      s).ring q = s.ring q :=
  foldl_unchanged _ (fun t => t.ring q) (fun _ _ => State.ring_raise _ _ _ _ _ _) _ _

theorem State.ring_settleWrites :
    let x := s.ring r
    let a := absorbFill x.F x.poison x.fill
    (s.settleWrites r).ring r = { x with
      fill := a.fill, F := a.F, poison := a.poison, state := if a.refused then .halted else x.state } := by
  intro x a
  unfold State.settleWrites
  extract_lets poisoned
  have ring : poisoned.ring r = { x with fill := a.fill, F := a.F, poison := a.poison } :=
    (State.ring_foldl_poisoned _ _ _ _ _).trans (State.ring_setRing_self _ _ _)
  split
  · rw [State.ring_enterHalted, if_pos rfl, ring]
  · exact ring

theorem State.state_absorbWrites_ne_clearing (other : (s.ring r).state ≠ .clearing) :
    ((s.absorbWrites r).ring r).state ≠ .clearing := by
  obtain ⟨_, _, _, _, absorbed⟩ := s.ring_absorbWrites_self r
  rw [absorbed]
  dsimp only
  (repeat' split) <;> simp [other]

theorem State.absorbWrites_eq : s.absorbWrites r = (s.settleWrites r).finishWriteEnd r (s.ring r).F := rfl

/-- A refused extent makes a ring HALTED; in another state than HALTED it is only with none refused. -/
theorem settledState_iff {refused : Bool} {state other : RingState} (ne : other ≠ .halted) :
    (if refused then .halted else state) = other ↔ refused = false ∧ state = other := by
  cases refused <;> simp [ne.symm]

/-- The drain-end test of a ring that a refused extent may have made HALTED. -/
theorem settledState_drained {refused : Bool} {state : RingState} {drained : Prop} [Decidable drained] :
    (if (if refused then .halted else state) = .draining ∧ drained then RingState.paused
      else if refused then .halted else state)
        = if refused then .halted else if state = .draining ∧ drained then .paused else state := by
  cases refused <;> simp

end

/-! ## The last end of a ring write -/

/-- Settles O30: the report of the last end is the model's end of a ring write, whose absorption settles the run
(`State.settleWrites`), reports the landing (`State.reportLanding`) and makes the drain-end test. -/
theorem writeEndAnswersAndAbsorbs : Obligations.WriteEndAnswersAndAbsorbs := by
  intro s o x r id status data h0 distinct member names live written txn writes ringOf one ring parts ok fill ended a
    taken poisoned settled moved boundary shadow refusal applied evaluated scanned reported landed done
  generalize y_eq : ({ x with parts := parts, outstanding := 0 } : Txn) = y
  have part_ended : x.endPart o.part (o.endBy status data) = y := (x.endPart_write one written).trans y_eq
  have next := exec_memoryResponse_last h0 distinct member names live txn ringOf (by simp [written]) part_ended
    (by rw [← y_eq])
  have ended_eq : ((s.recordEnd o y).setRing r { ring with fill := fill }).answer o.transaction
      (if ok then .done else .fault) = ended := by
    rw [← y_eq]
    exact (s.setRing r _).answer_recordEnd o _ _ _
  have ring_ended : ended.ring r = { ring with fill := fill } := s.ring_setRing_self r _
  have settled_eq : ended.settleWrites r = settled := by
    have frontier : (poisoned.ring r).F = a.F :=
      congrArg Ring.F ((State.ring_foldl_poisoned _ _ _ _ _).trans (State.ring_setRing_self _ _ _))
    simp only [State.settleWrites, ring_ended]
    exact if_congr Iff.rfl ((State.enterHalted_eq poisoned r).trans (by rw [frontier])) rfl
  have ring_settled : settled.ring r = { ring with
      fill := a.fill, F := a.F, poison := a.poison, state := if a.refused then .halted else ring.state } := by
    rw [← settled_eq, State.ring_settleWrites]
    simp only [ring_ended]
    rfl
  have checks : (settled.ring r).shadowRefusal = refusal := by
    rw [ring_settled]
    exact Live.refusal_eq _ _
  have applies_iff (moving : ring.state = .active ∨ ring.state = .draining) :
      (settled.ring r).AppliesFrom ring.F ↔ boundary := by
    rw [ring_settled]
    simp only [Ring.AppliesFrom, boundary, moved]
    cases a.refused <;> simp [moving]
  have reported_eq (moving : ring.state = .active ∨ ring.state = .draining) :
      settled.reportLanding r ring.F = reported := by
    have applied_eq : (if (settled.ring r).AppliesFrom ring.F then settled.setRing r (settled.ring r).attemptApply
        else settled) = applied := by
      refine if_congr (applies_iff moving) ?_ rfl
      rw [Ring.attemptApply_of checks, ring_settled] <;> rfl
    have frontier : (settled.ring r).F = a.F := by rw [ring_settled]
    have evaluated_eq : settled.evaluateLanding r ring.F = evaluated := by
      simp only [State.evaluateLanding, applied_eq, frontier]
      rfl
    have active_iff : (settled.ring r).state = .active ↔ a.refused = false ∧ ring.state = .active := by
      rw [ring_settled]
      exact settledState_iff (by decide)
    simp only [State.reportLanding, evaluated_eq, frontier, checks]
    exact if_congr (and_congr_left' (applies_iff moving))
      (congrArg (State.raise · r .applied (some a.F) .absent) (if_congr (and_congr_right' active_iff) rfl rfl))
      (if_congr (and_congr_right' active_iff) rfl rfl)
  have landed_eq (moving : ring.state = .active ∨ ring.state = .draining) : ended.absorbWrites r = landed := by
    obtain ⟨_, _, _, _, termed⟩ : (settled.ring r).Retermed (reported.ring r) := by
      rw [← reported_eq moving, State.ring_reportLanding]
      exact settled.retermed_evaluateLanding r ring.F
    rw [State.absorbWrites_eq, settled_eq, ring_ended, State.finishWriteEnd_eq, reported_eq moving]
    refine if_congr ?_ ?_ rfl
    · rw [termed, ring_settled, Ring.not_fillInFlight_iff, settledState_iff (by decide)]
      tauto
    · rw [termed, ring_settled]
  have done_eq : (s.recordEnd o y).endWrite r o.transaction ok = done := by
    have lands : (s.recordEnd o y).endWrite r o.transaction ok
        = if ring.state = .active ∨ ring.state = .draining then ended.absorbWrites r else ended := by
      rw [← ended_eq]
      rfl
    rw [lands]
    by_cases moving : ring.state = .active ∨ ring.state = .draining
    · rw [if_pos moving, landed_eq moving]
      exact (if_pos moving).symm
    · rw [if_neg moving]
      exact (if_neg moving).symm
  have direction : y.direction = .write := by rw [← y_eq, writes]
  have allOk : y.allOk = ok := by rw [← y_eq]; rfl
  simp only [State.endRingRequest, direction, allOk, done_eq] at next
  have fields : done = { s with
      rings := done.rings, pool := done.pool, sys := done.sys, mem := done.mem, events := done.events } := by
    rw [← done_eq]
    exact State.eq_of_fields (by simp; rfl) (by simp; rfl) (by simp; rfl) (by simp; rfl) rfl (by simp; rfl) rfl rfl rfl
      rfl (by simp; rfl) (by simp; rfl)
  have others : ∀ q, q ≠ r → done.ring q = s.ring q := fun q ne => by
    rw [← done_eq, State.ring_endWrite_ne _ ne]
    rfl
  have value_moving (moving : ring.state = .active ∨ ring.state = .draining) : done = ended.absorbWrites r :=
    (if_pos moving).trans (landed_eq moving).symm
  have value_other (moving : ¬ (ring.state = .active ∨ ring.state = .draining)) : done = ended := if_neg moving
  refine ⟨?_, fields, ?_, others, ?_⟩
  · obtain ⟨c, t, clearEnd, completion, response, stays⟩ :=
      State.tests_after_end ((congrArg State.inReset fields).trans h0) next
    refine ⟨c, t, clearEnd, completion, response, fun running other =>
      stays ((congrArg State.part fields).trans running) ?_⟩
    by_cases moving : ring.state = .active ∨ ring.state = .draining
    · rw [value_moving moving]
      exact ended.state_absorbWrites_ne_clearing r (by rwa [ring_ended])
    · rwa [value_other moving, ring_ended]
  · intro free
    have kept : done.txn o.transaction = ended.txn o.transaction := by
      by_cases moving : ring.state = .active ∨ ring.state = .draining
      · rw [value_moving moving]
        exact State.txn_absorbWrites ended free
      · rw [value_other moving]
    rw [kept]
    exact Vector.getElem_set_self _
  · by_cases moving : ring.state = .active ∨ ring.state = .draining
    · rw [if_pos moving]
      have completed : done = settled.finishWriteEnd r ring.F := by
        rw [value_moving moving, State.absorbWrites_eq, settled_eq, ring_ended]
      have final := settled.ring_finishWriteEnd_eq r ring.F
      have state_eq : (if (settled.ring r).state = .draining ∧ (settled.ring r).fillInFlight = false then .paused
          else (settled.ring r).state) = if a.refused then .halted
          else if ring.state = .draining ∧ (a.fill.any fun e => e.state = .inFlight) = false then .paused
          else ring.state := by
        rw [ring_settled]
        exact settledState_drained
      simp only [← completed, Ring.termedFrom_eq checks, applies_iff moving, state_eq] at final
      rw [ring_settled] at final
      exact final
    · rw [if_neg moving, value_other moving]
      exact ⟨ring_ended, rfl, rfl⟩

end Sys2Proof.Machine
end

section
/-! The scoreboards and the poison list under an absorption, an insertion, a merge, a retirement and a cut (O31). -/

namespace Sys2Proof.Machine

/-! ## An unbroken run -/

/-- Two entries of which the second begins where the first ends (R62, R86). -/
abbrev ScoreEntry.Touches (e f : ScoreEntry) : Prop := e.extent.stop = f.extent.start

/-- The entries begin with an unbroken run that moves a frontier from `start` to `stop`, and `rest` is what follows. -/
structure TakesRun (start : Nat) (entries run rest : List ScoreEntry) (stop : Nat) : Prop where
  split : entries = run ++ rest
  unbroken : run.IsChain ScoreEntry.Touches
  begins : ∀ e, run.head? = some e → e.extent.start = start
  idle : run = [] → stop = start
  ends : ∀ e, run.getLast? = some e → stop = e.extent.stop

theorem TakesRun.empty (start : Nat) (entries : List ScoreEntry) : TakesRun start entries [] entries start where
  split := rfl
  unbroken := .nil
  begins := by simp
  idle _ := rfl
  ends := by simp

theorem TakesRun.cons {entries run rest : List ScoreEntry} {stop : Nat} {e : ScoreEntry}
    (h : TakesRun e.extent.stop entries run rest stop) :
    TakesRun e.extent.start (e :: entries) (e :: run) rest stop where
  split := congrArg (e :: ·) h.split
  unbroken := List.isChain_cons.mpr ⟨fun f hf => (h.begins f hf).symm, h.unbroken⟩
  begins f hf := by rw [Option.some.inj hf]
  idle empty := by cases empty
  ends last hlast := by
    cases run with
    | nil => rw [h.idle rfl, ← Option.some.inj hlast]; rfl
    | cons f run => exact h.ends last hlast

theorem TakesRun.length_le {start stop : Nat} {entries run rest : List ScoreEntry}
    (h : TakesRun start entries run rest stop) : rest.length ≤ entries.length := by
  rw [h.split, List.length_append]
  exact Nat.le_add_left _ _

theorem TakesRun.mem_of_rest {start stop : Nat} {entries run rest : List ScoreEntry} {e : ScoreEntry}
    (h : TakesRun start entries run rest stop) (mem : e ∈ rest) : e ∈ entries := by
  rw [h.split]
  exact List.mem_append_right _ mem

/-! ## The absorption of the fill side -/

/-- A run's entry is taken: a VOID extent extends the poison list's last entry or is appended and counted (R112). -/
def takePoison (taken : List Extent × List Extent) (e : ScoreEntry) : List Extent × List Extent :=
  if e.state = .void then
    match taken.1.getLast? with
    | some last =>
      if last.stop = e.extent.start then (taken.1.dropLast ++ [⟨last.start, e.extent.stop⟩], taken.2)
      else (taken.1 ++ [e.extent], taken.2 ++ [e.extent])
    | none => ([e.extent], taken.2 ++ [e.extent])
  else taken

/-- An entry's extent is counted behind those counted before it. -/
theorem takePoison_append (e : ScoreEntry) (list earlier added : List Extent) :
    takePoison (list, earlier ++ added) e
      = ((takePoison (list, added) e).1, earlier ++ (takePoison (list, added) e).2) := by
  unfold takePoison
  dsimp only
  split
  · cases list.getLast? with
    | none => simp
    | some last => by_cases touches : last.stop = e.extent.start <;> simp [touches]
  · rfl

/-- What was counted before a run is counted before what the run adds. -/
theorem foldl_takePoison (run : List ScoreEntry) (list earlier added : List Extent) :
    run.foldl takePoison (list, earlier ++ added)
      = ((run.foldl takePoison (list, added)).1, earlier ++ (run.foldl takePoison (list, added)).2) := by
  induction run generalizing list added with
  | nil => rfl
  | cons e run ih =>
    rw [List.foldl_cons, List.foldl_cons, takePoison_append, ih]

/-- The poison list is full and its last entry does not end at the frontier (R112). -/
abbrev PoisonFull (F : Nat) (poison : List Extent) : Prop :=
  4 ≤ poison.length ∧ ∀ last, poison.getLast? = some last → last.stop ≠ F

/-- The table of R112: an offer extends the last entry, adds one to a list with room, or is refused by a full list. -/
inductive PoisonOffer.Is (F : Nat) (e : ScoreEntry) (list : List Extent) : PoisonOffer → Prop
  | merged {list'} (taken : takePoison (list, []) e = (list', [])) (size : list'.length = list.length) :
      Is F e list (.merged list')
  | added {list'} (taken : takePoison (list, []) e = (list', [e.extent])) (size : list'.length ≤ 4) :
      Is F e list (.added list')
  | refused (full : PoisonFull F list) : Is F e list .refused

theorem offerPoison_is {e : ScoreEntry} (void : e.state = .void) (list : List Extent) :
    (offerPoison e.extent.start e.extent.stop list).Is e.extent.start e list := by
  unfold offerPoison
  cases found : list.getLast? with
  | none => exact .added (by simp [takePoison, void, found]) (by simp)
  | some last =>
    have nonempty : 0 < list.length := List.length_pos_of_mem (List.mem_of_getLast? found)
    dsimp only
    split
    · rename_i touches
      refine .merged (by simp [takePoison, void, found, touches]) ?_
      rw [List.length_append, List.length_dropLast, List.length_singleton]
      omega
    · rename_i apart
      split
      · rename_i room
        refine .added (by simp [takePoison, void, found, apart]) ?_
        rw [List.length_append, List.length_singleton]
        exact room
      · rename_i full
        exact .refused ⟨Nat.not_lt.mp full, fun last' same => Option.some.inj (found.symm.trans same) ▸ apart⟩

/-- What an absorption of the fill side takes, and where it stops (R62, R63, R112). -/
structure FillAbsorption.Takes (a : FillAbsorption) (F : Nat) (poison : List Extent) (fill run : List ScoreEntry) :
    Prop where
  takesRun : TakesRun F fill run a.fill a.F
  taken : ∀ e ∈ run, e.state ≠ .inFlight
  stops : a.refused = false → ∀ e, a.fill.head? = some e → e.extent.start ≠ a.F ∨ e.state = .inFlight
  refuses : a.refused = true → ∃ e, a.fill.head? = some e ∧ e.extent.start = a.F ∧ e.state = .void
    ∧ PoisonFull a.F a.poison
  lists : (a.poison, a.added) = run.foldl takePoison (poison, [])
  size : poison.length ≤ 4 → a.poison.length ≤ 4

/-- An absorption that takes an entry and goes on from its end. -/
theorem FillAbsorption.Takes.cons {a : FillAbsorption} {e : ScoreEntry} {poison list added : List Extent}
    {rest run : List ScoreEntry} (h : a.Takes e.extent.stop list rest run) (landed : e.state ≠ .inFlight)
    (takes : takePoison (poison, []) e = (list, added)) (size : poison.length ≤ 4 → list.length ≤ 4) :
    FillAbsorption.Takes { a with added := added ++ a.added } e.extent.start poison (e :: rest) (e :: run) where
  takesRun := h.takesRun.cons
  taken := List.forall_mem_cons.mpr ⟨landed, h.taken⟩
  stops := h.stops
  refuses := h.refuses
  lists := by
    have later := foldl_takePoison run list added []
    rw [List.append_nil, ← h.lists] at later
    rw [List.foldl_cons, takes, later]
  size small := h.size (size small)

/-- Every absorption of the fill side takes a run (R62, R63). -/
theorem absorbFill_takes (F : Nat) (poison : List Extent) (fill : List ScoreEntry) :
    ∃ run, (absorbFill F poison fill).Takes F poison fill run := by
  induction fill generalizing F poison with
  | nil =>
    exact ⟨[], { takesRun := .empty _ _, taken := by simp, stops := by simp [absorbFill]
                 refuses := by simp [absorbFill], lists := rfl, size := id }⟩
  | cons e rest ih =>
    unfold absorbFill
    by_cases start : e.extent.start = F
    · subst start
      rw [if_pos rfl]
      cases state : e.state with
      | inFlight =>
        exact ⟨[], { takesRun := .empty _ _, taken := by simp, stops := by simp [state], refuses := by simp
                     lists := rfl, size := id }⟩
      | landed =>
        obtain ⟨run, takes⟩ := ih e.extent.stop poison
        exact ⟨e :: run, takes.cons (added := []) (by simp [state]) (by simp [takePoison, state]) id⟩
      | void =>
        have landed : e.state ≠ .inFlight := by simp [state]
        dsimp only
        have offered := offerPoison_is state poison
        generalize offerPoison e.extent.start e.extent.stop poison = offer at offered ⊢
        cases offered with
        | merged taken size =>
          obtain ⟨run, takes⟩ := ih e.extent.stop _
          exact ⟨e :: run, takes.cons landed taken fun small => size.trans_le small⟩
        | added taken size =>
          obtain ⟨run, takes⟩ := ih e.extent.stop _
          exact ⟨e :: run, takes.cons landed taken fun _ => size⟩
        | refused full =>
          exact ⟨[], { takesRun := .empty _ _, taken := by simp, stops := by simp
                       refuses := fun _ => ⟨e, rfl, rfl, state, full⟩, lists := rfl, size := id }⟩
    · rw [if_neg start]
      exact ⟨[], { takesRun := .empty _ _, taken := by simp, stops := by simp [start], refuses := by simp
                   lists := rfl, size := id }⟩

/-! ## The absorption of the drain side -/

/-- Every absorption of the drain side takes a run of LANDED entries, and stops where none begins (R86). -/
theorem absorbDrain_takes (D : Nat) (drain : List ScoreEntry) :
    ∃ run, TakesRun D drain run (absorbDrain D drain).1 (absorbDrain D drain).2 ∧ (∀ e ∈ run, e.state = .landed)
      ∧ ∀ e, (absorbDrain D drain).1.head? = some e →
          e.extent.start ≠ (absorbDrain D drain).2 ∨ e.state ≠ .landed := by
  induction drain generalizing D with
  | nil => exact ⟨[], .empty _ _, by simp, by simp [absorbDrain]⟩
  | cons e rest ih =>
    unfold absorbDrain
    by_cases lands : e.extent.start = D ∧ e.state = .landed
    · obtain ⟨rfl, state⟩ := lands
      rw [if_pos ⟨rfl, state⟩]
      obtain ⟨run, takes, landed, stops⟩ := ih e.extent.stop
      exact ⟨e :: run, takes.cons, List.forall_mem_cons.mpr ⟨state, landed⟩, stops⟩
    · rw [if_neg lands]
      refine ⟨[], .empty _ _, by simp, fun f hf => ?_⟩
      rw [← Option.some.inj hf]
      exact not_and_or.mp lands

/-! ## An insertion -/

/-- An inserted entry stands behind those that begin at or behind it and before the first that begins beyond it (R43,
R71). -/
theorem insertEntry_splits (A frontier : Nat) (e : ScoreEntry) (entries : List ScoreEntry) :
    ∃ before behind, entries = before ++ behind ∧ insertEntry A frontier e entries = before ++ e :: behind
      ∧ (∀ f ∈ before, signedDistance A frontier f.extent.start ≤ signedDistance A frontier e.extent.start)
      ∧ ∀ f, behind.head? = some f →
          signedDistance A frontier e.extent.start < signedDistance A frontier f.extent.start := by
  induction entries with
  | nil => exact ⟨[], [], rfl, rfl, by simp, by simp⟩
  | cons g rest ih =>
    unfold insertEntry
    split
    · rename_i beyond
      exact ⟨[], g :: rest, rfl, rfl, by simp, fun f hf => Option.some.inj hf ▸ beyond⟩
    · rename_i upTo
      obtain ⟨before, behind, rfl, inserted, upTo', beyond⟩ := ih
      exact ⟨g :: before, behind, rfl, congrArg (g :: ·) inserted,
        List.forall_mem_cons.mpr ⟨Int.not_lt.mp upTo, upTo'⟩, beyond⟩

theorem insertEntry_length (A frontier : Nat) (e : ScoreEntry) (entries : List ScoreEntry) :
    (insertEntry A frontier e entries).length = entries.length + 1 := by
  obtain ⟨before, behind, rfl, inserted, -⟩ := insertEntry_splits A frontier e entries
  rw [inserted, List.length_append, List.length_append, List.length_cons]
  rfl

/-! ## A merge -/

/-- Two LANDED entries that touch (R61, R85). -/
abbrev ScoreEntry.Joins (e f : ScoreEntry) : Prop :=
  e.state = .landed ∧ f.state = .landed ∧ e.extent.stop = f.extent.start

/-- One entry that spans a row of entries and carries the transaction entry numbers of all of them (R61, R85). -/
def ScoreEntry.Spans (row : List ScoreEntry) (m : ScoreEntry) : Prop :=
  ∀ first last, row.head? = some first → row.getLast? = some last →
    m = { extent := ⟨first.extent.start, last.extent.stop⟩, state := first.state
          transactions := row.flatMap ScoreEntry.transactions }

theorem ScoreEntry.spans_singleton (e : ScoreEntry) : ScoreEntry.Spans [e] e := by
  rintro first last hf hl
  cases hf
  cases hl
  simp

/-- The rows that a merge makes entries of, and the entries that it makes. -/
structure MergesRows (entries : List ScoreEntry) (rows : List (List ScoreEntry)) (merged : List ScoreEntry) : Prop where
  flatten : rows.flatten = entries
  joined : ∀ row ∈ rows, row ≠ [] ∧ row.IsChain ScoreEntry.Joins
  spans : List.Forall₂ ScoreEntry.Spans rows merged

/-- An entry that is not joined is a row of its own. -/
theorem MergesRows.alone {entries merged : List ScoreEntry} {rows : List (List ScoreEntry)} (e : ScoreEntry)
    (h : MergesRows entries rows merged) : MergesRows (e :: entries) ([e] :: rows) (e :: merged) where
  flatten := congrArg (e :: ·) h.flatten
  joined := List.forall_mem_cons.mpr ⟨⟨by simp, .singleton e⟩, h.joined⟩
  spans := .cons e.spans_singleton h.spans

/-- An entry that is joined to the first merged one extends its row. -/
theorem MergesRows.join {entries more : List ScoreEntry} {row : List ScoreEntry} {rows : List (List ScoreEntry)}
    {e f : ScoreEntry} (h : MergesRows entries (row :: rows) (f :: more)) (joins : e.Joins f) :
    MergesRows (e :: entries) ((e :: row) :: rows)
      ({ extent := ⟨e.extent.start, f.extent.stop⟩, state := .landed,
         transactions := e.transactions ++ f.transactions } :: more) := by
  obtain ⟨⟨nonempty, chain⟩, others⟩ := List.forall_mem_cons.mp h.joined
  obtain ⟨spans, rest⟩ := List.forall₂_cons.mp h.spans
  obtain ⟨g, row, rfl⟩ := List.exists_cons_of_ne_nil nonempty
  obtain ⟨landed, landed', touches⟩ := joins
  refine ⟨congrArg (e :: ·) h.flatten,
    List.forall_mem_cons.mpr ⟨⟨by simp, List.isChain_cons_cons.mpr ⟨?_, chain⟩⟩, others⟩,
    .cons (fun first last hf hl => ?_) rest⟩
  · have same := spans g _ rfl (List.getLast?_eq_some_getLast nonempty)
    rw [same] at landed' touches
    exact ⟨landed, landed', touches⟩
  · cases hf
    rw [spans g last rfl hl, landed]
    rfl

/-- Merging makes one entry of each of the rows into which the entries fall (R61, R85). -/
theorem mergeLanded_rows (entries : List ScoreEntry) : ∃ rows, MergesRows entries rows (mergeLanded entries) := by
  induction entries with
  | nil => exact ⟨[], rfl, by simp, .nil⟩
  | cons e rest ih =>
    obtain ⟨rows, merges⟩ := ih
    unfold mergeLanded
    cases found : mergeLanded rest with
    | nil =>
      rw [found] at merges
      exact ⟨_, merges.alone e⟩
    | cons f more =>
      rw [found] at merges
      dsimp only
      split
      · rename_i joins
        cases rows with
        | nil => cases merges.spans
        | cons row rows => exact ⟨_, merges.join joins⟩
      · exact ⟨_, merges.alone e⟩

/-- After a merge no LANDED entry touches the next: every row is a longest one (R61, R85). -/
theorem mergeLanded_apart (entries : List ScoreEntry) :
    (mergeLanded entries).IsChain fun e f => ¬ e.Joins f := by
  induction entries with
  | nil => exact .nil
  | cons e rest ih =>
    unfold mergeLanded
    cases found : mergeLanded rest with
    | nil => exact .singleton e
    | cons f more =>
      rw [found] at ih
      dsimp only
      split
      · rename_i joins
        obtain ⟨next, chain⟩ := List.isChain_cons.mp ih
        exact List.isChain_cons.mpr ⟨fun g hg meets => next g hg ⟨joins.2.1, meets.2⟩, chain⟩
      · rename_i apart
        exact List.isChain_cons_cons.mpr ⟨apart, ih⟩

/-! ## A retirement and a cut -/

/-- What a test picks and a function changes, in one pass. -/
theorem filterMap_ite_some {α β : Type} (p : α → Prop) [DecidablePred p] (f : α → β) (l : List α) :
    l.filterMap (fun a => if p a then some (f a) else none) = (l.filter fun a => decide (p a)).map f := by
  rw [← List.filterMap_eq_map, List.filterMap_filter]
  simp

/-- Poison that ends at or behind the new K is removed, and what straddles it begins at it (R55). -/
theorem retirePoison_eq_map (A K : Nat) (list : List Extent) : retirePoison A K list
    = (list.filter fun e => decide (IsBeyond A K e.stop)).map fun e =>
        if IsBehind A K e.start then ⟨K, e.stop⟩ else e := by
  rw [← filterMap_ite_some]
  unfold retirePoison
  simp only [apply_ite some]

/-- Drain entries that end at or behind the new D are removed, and what straddles it begins at it (R57). -/
theorem cutDrain_eq_map (A D : Nat) (entries : List ScoreEntry) : cutDrain A D entries
    = (entries.filter fun e => decide (IsBeyond A D e.extent.stop)).map fun e =>
        if IsBehind A D e.extent.start then { e with extent := ⟨D, e.extent.stop⟩ } else e := by
  rw [← filterMap_ite_some]
  unfold cutDrain
  simp only [apply_ite some]

/-- Settles O31: the run of each absorption (`absorbFill_takes`, `absorbDrain_takes`), the place of an inserted entry
(`insertEntry_splits`), the rows of a merge (`mergeLanded_rows`, `mergeLanded_apart`), and what a retirement and a cut
leave. -/
theorem absorptionTakesTheWholeRun : Obligations.AbsorptionTakesTheWholeRun := by
  refine ⟨fun F poison fill => ?_, fun D drain => ?_, insertEntry_splits, fun entries => ?_, retirePoison_eq_map,
    cutDrain_eq_map⟩
  · obtain ⟨run, takes⟩ := absorbFill_takes F poison fill
    refine ⟨run, takes.takesRun.split, takes.taken, takes.takesRun.unbroken, ?_, takes.takesRun.ends, takes.stops,
      takes.refuses, takes.lists, takes.size⟩
    cases run with
    | nil => exact takes.takesRun.idle rfl
    | cons e run => exact takes.takesRun.begins e rfl
  · obtain ⟨run, takes, landed, stops⟩ := absorbDrain_takes D drain
    refine ⟨run, takes.split, landed, takes.unbroken, ?_, takes.ends, stops⟩
    cases run with
    | nil => exact takes.idle rfl
    | cons e run => exact takes.begins e rfl
  · obtain ⟨rows, merges⟩ := mergeLanded_rows entries
    exact ⟨rows, merges.flatten, merges.joined, merges.spans, mergeLanded_apart entries⟩

end Sys2Proof.Machine
end

section
/-! The sizes of the scoreboards and of the poison list: every event leaves them within their bounds and no drain entry
VOID (O57). -/

namespace Sys2Proof.Machine

/-! ## The lengths of the lists -/

theorem turnEntry_length (t : TxnNo) (state : EntryState) (entries : List ScoreEntry) :
    (turnEntry t state entries).length = entries.length := List.length_map _

/-- A merge makes at most one entry of each. -/
theorem mergeLanded_length_le (entries : List ScoreEntry) : (mergeLanded entries).length ≤ entries.length := by
  induction entries with
  | nil => exact le_rfl
  | cons e rest ih =>
    unfold mergeLanded
    split
    · exact Nat.succ_le_succ (Nat.zero_le _)
    · rename_i f more merged
      rw [merged, List.length_cons] at ih
      split <;> simp only [List.length_cons] <;> omega

/-- A merge makes no VOID entry of entries that are not (R85). -/
theorem mergeLanded_not_void {entries : List ScoreEntry} (h : ∀ e ∈ entries, e.state ≠ .void) :
    ∀ e ∈ mergeLanded entries, e.state ≠ .void := by
  induction entries with
  | nil => exact h
  | cons e rest ih =>
    obtain ⟨first, others⟩ := List.forall_mem_cons.mp h
    have merged := ih others
    unfold mergeLanded
    split
    · exact List.forall_mem_cons.mpr ⟨first, by simp⟩
    · rename_i f more found
      rw [found] at merged
      split
      · exact List.forall_mem_cons.mpr ⟨by simp, (List.forall_mem_cons.mp merged).2⟩
      · exact List.forall_mem_cons.mpr ⟨first, merged⟩

theorem turnEntry_not_void {entries : List ScoreEntry} {state : EntryState} (h : ∀ e ∈ entries, e.state ≠ .void)
    (turned : state ≠ .void) (t : TxnNo) : ∀ e ∈ turnEntry t state entries, e.state ≠ .void := by
  refine List.forall_mem_map.mpr fun e he => ?_
  split
  · exact turned
  · exact h e he

theorem retirePoison_length_le (A K : Nat) (list : List Extent) : (retirePoison A K list).length ≤ list.length :=
  List.length_filterMap_le _ _

theorem cutDrain_length_le (A D : Nat) (entries : List ScoreEntry) : (cutDrain A D entries).length ≤ entries.length :=
  List.length_filterMap_le _ _

theorem cutDrain_not_void {entries : List ScoreEntry} (h : ∀ e ∈ entries, e.state ≠ .void) (A D : Nat) :
    ∀ e ∈ cutDrain A D entries, e.state ≠ .void := by
  rw [cutDrain_eq_map]
  refine List.forall_mem_map.mpr fun e he => ?_
  have kept := h e (List.mem_of_mem_filter he)
  split
  · exact kept
  · exact kept

/-! ## One ring -/

/-- The scoreboards and the poison list are within their sizes, and no drain entry is VOID (R43, R71, R111). -/
structure Ring.BoardsFit (x : Ring) : Prop where
  bounded : x.Bounded
  noVoid : ∀ e ∈ x.drain, e.state ≠ .void

section
variable {x y : Ring}

theorem Ring.boardsFit_of_empty (fill : x.fill = []) (drain : x.drain = []) (poison : x.poison = []) : x.BoardsFit :=
  ⟨⟨by simp [fill], by simp [drain], by simp [poison]⟩, by simp [drain]⟩

theorem Ring.BoardsFit.of_same (h : x.BoardsFit) (fill : y.fill = x.fill) (drain : y.drain = x.drain)
    (poison : y.poison = x.poison) : y.BoardsFit :=
  ⟨⟨fill ▸ h.bounded.fill, drain ▸ h.bounded.drain, poison ▸ h.bounded.poison⟩, drain ▸ h.noVoid⟩

theorem Ring.BoardsFit.of_retermed (h : x.BoardsFit) (same : x.Retermed y) : y.BoardsFit := by
  obtain ⟨_, _, _, _, rfl⟩ := same
  exact h.of_same rfl rfl rfl

theorem Ring.BoardsFit.setFill (h : x.BoardsFit) {l : List ScoreEntry} (le : l.length ≤ x.fill.length) :
    Ring.BoardsFit { x with fill := l } :=
  ⟨⟨le.trans h.bounded.fill, h.bounded.drain, h.bounded.poison⟩, h.noVoid⟩

theorem Ring.BoardsFit.setDrain (h : x.BoardsFit) {l : List ScoreEntry} (le : l.length ≤ x.drain.length)
    (noVoid : ∀ e ∈ l, e.state ≠ .void) : Ring.BoardsFit { x with drain := l } :=
  ⟨⟨h.bounded.fill, le.trans h.bounded.drain, h.bounded.poison⟩, noVoid⟩

/-- An absorption of the fill side shortens the scoreboard and never over-fills the poison list (R62, R112). -/
theorem Ring.BoardsFit.absorbFill (h : x.BoardsFit) :
    (absorbFill x.F x.poison x.fill).fill.length ≤ Config.scoreboardSize
      ∧ (absorbFill x.F x.poison x.fill).poison.length ≤ Config.poisonSize := by
  obtain ⟨run, takes⟩ := absorbFill_takes x.F x.poison x.fill
  exact ⟨takes.takesRun.length_le.trans h.bounded.fill, takes.size h.bounded.poison⟩

/-- An absorption of the drain side shortens the scoreboard (R86). -/
theorem Ring.BoardsFit.absorbDrain (h : x.BoardsFit) (D : Nat) :
    Ring.BoardsFit { x with drain := (absorbDrain D x.drain).1 } := by
  obtain ⟨run, takes, -⟩ := absorbDrain_takes D x.drain
  exact h.setDrain takes.length_le fun e he => h.noVoid e (takes.mem_of_rest he)

/-- The drain entry of a read that ended turns LANDED and merges (R83, R85). -/
theorem Ring.BoardsFit.landRead (h : x.BoardsFit) (t : TxnNo) :
    Ring.BoardsFit { x with drain := mergeLanded (turnEntry t .landed x.drain) } :=
  h.setDrain ((mergeLanded_length_le _).trans (turnEntry_length _ _ _).le)
    (mergeLanded_not_void (turnEntry_not_void h.noVoid (by decide) t))

/-- A write is admitted to a fill scoreboard with room alone (R45, check 7). -/
theorem fill_lt_of_admitted {master : MasterNo} {e : Extent} (h : judgeWrite x master e = .admitted) :
    x.fill.length < Config.scoreboardSize := by
  by_contra full
  unfold judgeWrite at h
  simp only [if_pos (Nat.not_lt.mp full), ite_eq_iff, reduceCtorEq, and_false, or_false] at h

theorem Ring.BoardsFit.placeWrite (h : x.BoardsFit) {master : MasterNo} {e : Extent}
    (admitted : judgeWrite x master e = .admitted) (t : TxnNo) : (x.placeWrite t e).BoardsFit := by
  rw [Ring.placeWrite_eq]
  refine ⟨⟨(insertEntry_length _ _ _ _).trans_le (fill_lt_of_admitted admitted), h.bounded.drain, ?_⟩, h.noVoid⟩
  dsimp only
  split
  · exact (retirePoison_length_le _ _ _).trans h.bounded.poison
  · exact h.bounded.poison

/-- A read with a consume part passes the checks with room in the drain scoreboard alone (R73, check 7). -/
theorem drain_lt_of_passes {cls : RequestClass} {e c : Extent}
    (h : judgeRead x cls e = .admitted ∨ judgeRead x cls e = .poisoned) (part : consumePart x cls e = some c) :
    x.drain.length < Config.scoreboardSize := by
  by_contra full
  have busy : (consumePart x cls e).isSome ∧ Config.scoreboardSize ≤ x.drain.length :=
    ⟨by rw [part]; rfl, Nat.not_lt.mp full⟩
  unfold judgeRead at h
  simp only [if_pos busy, ite_eq_iff, reduceCtorEq, and_false, or_false] at h

theorem Ring.BoardsFit.placeRead (h : x.BoardsFit) {cls : RequestClass} {e : Extent}
    (passes : judgeRead x cls e = .admitted ∨ judgeRead x cls e = .poisoned) (t : TxnNo) {state : EntryState}
    (turned : state ≠ .void) : (x.placeRead t (consumePart x cls e) state).BoardsFit := by
  cases part : consumePart x cls e with
  | none => exact h
  | some c =>
    have drain := (insertEntry_length x.A x.D { extent := c, state := state, transactions := [t] } x.drain).trans_le
      (drain_lt_of_passes passes part)
    refine ⟨⟨h.bounded.fill, drain, h.bounded.poison⟩, fun f hf => ?_⟩
    rcases mem_insertEntry.mp hf with rfl | hf
    · exact turned
    · exact h.noVoid f hf

end

/-! ## All rings -/

def State.BoardsFit (s : State) : Prop := ∀ r, (s.ring r).BoardsFit

theorem State.boardsFit_iff (s : State) : s.BoardsFit ↔ s.RingsBounded ∧ s.DrainNeverVoid :=
  ⟨fun h => ⟨fun r => (h r).bounded, fun r => (h r).noVoid⟩, fun h r => ⟨h.1 r, h.2 r⟩⟩

section
variable {s s' : State}

/-- A change that leaves the rings alone. -/
theorem State.BoardsFit.of_rings (h : s.BoardsFit) (rings : s'.rings = s.rings) : s'.BoardsFit :=
  fun r => State.ring_congr rings r ▸ h r

/-- A change of one ring alone. -/
theorem State.BoardsFit.one (h : s.BoardsFit) {r : RingNo} (fits : (s'.ring r).BoardsFit)
    (others : ∀ q, q ≠ r → s'.ring q = s.ring q) : s'.BoardsFit := by
  intro q
  by_cases same : q = r
  · exact same ▸ fits
  · exact others q same ▸ h q

theorem State.BoardsFit.setRing (h : s.BoardsFit) {r : RingNo} {y : Ring} (fits : y.BoardsFit) :
    (s.setRing r y).BoardsFit :=
  h.one (r := r) (by rwa [State.ring_setRing_self]) fun q ne => State.ring_setRing_ne s ne y

/-- A change of a ring's other fields. -/
theorem State.BoardsFit.setRing_same (h : s.BoardsFit) {r : RingNo} {y : Ring}
    (fill : y.fill = (s.ring r).fill) (drain : y.drain = (s.ring r).drain)
    (poison : y.poison = (s.ring r).poison) : (s.setRing r y).BoardsFit :=
  h.setRing ((h r).of_same fill drain poison)

/-! ## The ring engine -/

theorem State.BoardsFit.raise (h : s.BoardsFit) (r : RingNo) (k : EventKind) (p : Option Nat) (c : EventCount) :
    (s.raise r k p c).BoardsFit := h.of_rings (State.raise_rings ..)

theorem State.BoardsFit.answer (h : s.BoardsFit) (u : TxnNo) (a : Status) (d : List Byte) :
    (s.answer u a d).BoardsFit := h.of_rings (State.answer_rings ..)

theorem State.BoardsFit.askHold (h : s.BoardsFit) (u : TxnNo) (x : Txn) (r : RingNo) (w : HoldReason) :
    (s.askHold u x r w).BoardsFit := h.of_rings (State.askHold_rings ..)

theorem State.BoardsFit.enqueueParts (h : s.BoardsFit) (u : TxnNo) (x : Txn) (c : OpClass) :
    (s.enqueueParts u x c).BoardsFit := h.of_rings (State.enqueueParts_rings ..)

theorem State.BoardsFit.answerHeld (h : s.BoardsFit) (chosen : HoldEntry → Bool) (status : HoldEntry → Status) :
    (s.answerHeld chosen status).BoardsFit := h.of_rings (State.answerHeld_rings ..)

theorem State.BoardsFit.releaseScan (h : s.BoardsFit) (r : RingNo) (examines : HoldReason → Bool) :
    (s.releaseScan r examines).BoardsFit := h.of_rings (State.releaseScan_rings ..)

theorem State.BoardsFit.evaluateLevel (h : s.BoardsFit) (r : RingNo) : (s.evaluateLevel r).BoardsFit :=
  h.one ((h r).of_retermed (s.retermed_evaluateLevel r)) fun q ne => by rw [State.ring_evaluateLevel, if_neg ne]

theorem State.BoardsFit.testDrainEnd (h : s.BoardsFit) (r : RingNo) : (s.testDrainEnd r).BoardsFit :=
  h.one (r := r) (by rw [State.ring_testDrainEnd_self]; exact (h r).of_same rfl rfl rfl)
    fun q ne => by rw [State.ring_testDrainEnd, if_neg fun k => ne k.1]

theorem State.BoardsFit.testClearEnd (h : s.BoardsFit) (r : RingNo) : (s.testClearEnd r).BoardsFit := by
  intro q
  rw [State.ring_testClearEnd]
  split
  · exact Ring.boardsFit_of_empty rfl rfl rfl
  · exact h q

theorem State.BoardsFit.beginClear (h : s.BoardsFit) (r : RingNo) : (s.beginClear r).BoardsFit := by
  have answered : (s.answerHoldList r fun _ => .aborted).BoardsFit := h.answerHeld _ _
  have clearing : ((s.answerHoldList r fun _ => .aborted).setRing r
      { (s.answerHoldList r fun _ => .aborted).ring r with state := .clearing, outcome := .accepted }).BoardsFit :=
    answered.setRing_same rfl rfl rfl
  exact clearing.testClearEnd r

theorem State.BoardsFit.enterHalted (h : s.BoardsFit) (r : RingNo) : (s.enterHalted r).BoardsFit :=
  h.one (r := r) (by rw [State.ring_enterHalted, if_pos rfl]; exact (h r).of_same rfl rfl rfl)
    fun q ne => by rw [State.ring_enterHalted, if_neg ne]

theorem State.BoardsFit.absorbWrites (h : s.BoardsFit) (r : RingNo) : (s.absorbWrites r).BoardsFit := by
  obtain ⟨active, pending, outcome, side, absorbed⟩ := s.ring_absorbWrites_self r
  obtain ⟨fill, poison⟩ := (h r).absorbFill
  exact h.one (by rw [absorbed]; exact ⟨⟨fill, (h r).bounded.drain, poison⟩, (h r).noVoid⟩)
    fun q ne => s.ring_absorbWrites_ne ne

theorem State.BoardsFit.absorbReads (h : s.BoardsFit) (r : RingNo) : (s.absorbReads r).BoardsFit := by
  obtain ⟨side, absorbed, -⟩ := s.ring_absorbReads_self r
  exact h.one (by rw [absorbed]; exact ((h r).absorbDrain _).of_same rfl rfl rfl) fun q ne => s.ring_absorbReads_ne ne

theorem State.BoardsFit.endWrite (h : s.BoardsFit) (r : RingNo) (u : TxnNo) (ok : Bool) :
    (s.endWrite r u ok).BoardsFit := by
  unfold State.endWrite
  extract_lets x fill s1 s2
  have shorter : fill.length ≤ x.fill.length := by
    simp only [fill]
    split
    · exact (mergeLanded_length_le _).trans (turnEntry_length _ _ _).le
    · exact (turnEntry_length _ _ _).le
  have h1 : s1.BoardsFit := h.setRing ((h r).setFill shorter)
  have h2 : s2.BoardsFit := h1.answer _ _ _
  split
  · exact h2.absorbWrites r
  · exact h2

theorem State.BoardsFit.endRead (h : s.BoardsFit) (r : RingNo) (u : TxnNo) (ok : Bool) (data : List Byte) :
    (s.endRead r u ok data).BoardsFit := by
  unfold State.endRead
  extract_lets x s1 s2 s3
  have h1 : s1.BoardsFit := h.answer _ _ _
  have h2 : s2.BoardsFit := h1.setRing ((h r).landRead u)
  have h3 : s3.BoardsFit := h.answer _ _ _
  split
  · split
    · split
      · exact h2.absorbReads r
      · exact h2
    · exact h1
  · exact h3.setRing ((h r).setDrain (List.length_filter_le _ _)
      fun e he => (h r).noVoid e (List.mem_of_mem_filter he))

theorem State.BoardsFit.testResetCompletion (h : s.BoardsFit) : s.testResetCompletion.BoardsFit := by
  unfold State.testResetCompletion
  split
  · intro r
    rw [State.ring_emptyEvents, State.ring, mapPlaces_get]
    exact (h r).of_same rfl rfl rfl
  · exact h

/-! ## Admissions -/

theorem State.BoardsFit.overtake (h : s.BoardsFit) (r : RingNo) (e : Nat) : (s.overtake r e).BoardsFit := by
  unfold State.overtake
  extract_lets x d1 a s1 stale s2 y s3 s4 s5
  have cut : Ring.BoardsFit { x with drain := cutDrain x.A d1 x.drain } :=
    (h r).setDrain (cutDrain_length_le _ _ _) (cutDrain_not_void (h r).noVoid _ _)
  have h1 : s1.BoardsFit := h.setRing ((cut.absorbDrain d1).of_same rfl rfl rfl)
  have h2 : s2.BoardsFit := h1.answerHeld _ _
  have h3 : s3.BoardsFit := h2.setRing_same rfl rfl rfl
  exact ((h3.raise _ _ _ _).evaluateLevel r).releaseScan _ _

theorem State.BoardsFit.takeWrite (h : s.BoardsFit) (u : TxnNo) (x : Txn) (r : RingNo) (e : Extent) :
    (s.takeWrite u x r e).BoardsFit := by
  unfold State.takeWrite
  split
  · exact h.answer _ _ _
  split
  · have rejected : (s.setTxn u (some { x with cls := some .reject })).BoardsFit := h.of_rings rfl
    exact rejected.answer _ _ _
  · have counted : (s.setRing r
        { s.ring r with discardCount := countUp (s.ring r).discardCount }).BoardsFit := h.setRing_same rfl rfl rfl
    exact counted.answer _ _ _
  · exact h.answer _ _ _
  · exact h.askHold _ _ _ _
  · rename_i admitted
    have placed : (s.setRing r ((s.ring r).placeWrite u e)).BoardsFit := h.setRing ((h r).placeWrite admitted u)
    unfold State.admitWrite
    dsimp only
    split
    · exact (placed.overtake r e.stop).enqueueParts _ _ _
    · exact placed.enqueueParts _ _ _

theorem State.BoardsFit.poisonedRead (h : s.BoardsFit) {r : RingNo} {cls : RequestClass} {e : Extent}
    (poisoned : judgeRead (s.ring r) cls e = .poisoned) (u : TxnNo) :
    (s.poisonedRead u r (consumePart (s.ring r) cls e)).BoardsFit := by
  have placed := (h r).placeRead (.inr poisoned) u (state := .landed) (by decide)
  have answered : (s.answer u .poisoned).BoardsFit := h.answer _ _ _
  unfold State.poisonedRead
  cases part : consumePart (s.ring r) cls e with
  | none => exact answered
  | some c =>
    rw [part] at placed
    dsimp only
    rw [State.ring_answer]
    have merged := placed.setDrain (mergeLanded_length_le _) (mergeLanded_not_void placed.noVoid)
    exact (answered.setRing merged).absorbReads r

theorem State.BoardsFit.takeRead (h : s.BoardsFit) (u : TxnNo) (x : Txn) (r : RingNo) (e : Extent) :
    (s.takeRead u x r e).BoardsFit := by
  rw [State.takeRead_eq]
  generalize readClass (s.ring r) x.master = cls
  have classed : (s.setTxn u (some { x with cls := some cls })).BoardsFit := h.of_rings rfl
  split
  · exact classed.answer _ _ _
  · cases judged : judgeRead (s.ring r) cls e with
    | answer status => exact classed.answer _ _ _
    | hold => exact classed.askHold _ _ _ _
    | poisoned => exact classed.poisonedRead judged u
    | admitted =>
      exact (classed.setRing ((h r).placeRead (.inl judged) u (state := .inFlight) (by decide))).enqueueParts _ _ _

theorem State.BoardsFit.takeOldestAdmission (h : s.BoardsFit) (direction : Direction)
    {take : State → TxnNo → Txn → RingNo → Extent → State}
    (keeps : ∀ {s : State} (u : TxnNo) (x : Txn) (r : RingNo) (e : Extent), s.BoardsFit →
      (take s u x r e).BoardsFit) : (s.takeOldestAdmission direction take).BoardsFit := by
  unfold State.takeOldestAdmission
  split
  · exact h
  split
  · exact h
  split
  · split
    · exact keeps _ _ _ _ (h.of_rings rfl)
    · exact h
  · exact h

theorem State.BoardsFit.readmitHead (h : s.BoardsFit) : s.readmitHead.BoardsFit := by
  unfold State.readmitHead
  split
  swap
  · exact h
  split
  · exact h
  split
  · exact h
  rename_i g _
  have removed : State.BoardsFit { s with pool := s.pool.remove [g] } := h.of_rings rfl
  unfold State.admitHeld
  split
  · exact removed
  split
  · exact removed
  split
  · exact removed.takeWrite _ _ _ _
  · exact removed.takeRead _ _ _ _

/-! ## The ports and the timebase -/

theorem State.BoardsFit.considerHead (h : s.BoardsFit) : s.considerHead.BoardsFit := by
  unfold State.considerHead
  split
  · exact h
  split
  · rename_i op rest _ _
    have dequeued : State.BoardsFit { s with mem := { s.mem with queue := rest } } := h.of_rings rfl
    exact (dequeued.answer _ _ _).testResetCompletion
  split
  · exact h
  split
  · exact h
  · exact h.of_rings (State.issue_rings ..)

theorem State.BoardsFit.reportEnd (h : s.BoardsFit) (u : TxnNo) (p : PartNo) (e : OpEnd) :
    (s.reportEnd u p e).BoardsFit := by
  cases txn : s.txn u with
  | none =>
    simp only [State.reportEnd, txn]
    exact h.testResetCompletion
  | some x =>
    have recorded : (s.setTxn u (some (x.endPart p e))).BoardsFit := h.of_rings rfl
    cases ring : x.ring with
    | none =>
      rw [State.reportEnd_passThrough s txn ring]
      refine State.BoardsFit.testResetCompletion ?_
      split
      · exact recorded.of_rings (State.endPassThrough_rings ..)
      · exact recorded
    | some r =>
      rw [State.reportEnd_ring s txn ring]
      refine State.BoardsFit.testResetCompletion (State.BoardsFit.testClearEnd ?_ r)
      split
      · unfold State.endRingRequest
        split
        · exact recorded.endWrite _ _ _
        · exact recorded.endRead _ _ _ _
      · exact recorded

theorem State.BoardsFit.takeResponse (h : s.BoardsFit) (id : BitVec 6) (status : MemoryStatus) (data : List Byte) :
    (s.takeResponse id status data).BoardsFit := by
  unfold State.takeResponse
  split
  · exact h
  rename_i o _
  have freed : (s.freeOperation o.id).BoardsFit := h.of_rings rfl
  split
  · exact freed
  split
  · have counted : ((s.countMissing o.length data).freeOperation o.id).BoardsFit :=
      h.of_rings (State.countMissing_rings ..)
    exact counted.reportEnd _ _ _
  · exact freed.reportEnd _ _ _
  · exact freed.reportEnd _ _ _

theorem State.BoardsFit.orphan (h : s.BoardsFit) (id : OpId) : (s.orphan id).BoardsFit := h.of_rings rfl

theorem State.BoardsFit.takeTimeouts (h : s.BoardsFit) : s.takeTimeouts.BoardsFit :=
  foldl_keeps _ State.BoardsFit _ (fun _ o _ hs => (hs.orphan o.id).reportEnd o.transaction o.part .failed) _ h

theorem State.BoardsFit.deliverHead (h : s.BoardsFit) : s.deliverHead.BoardsFit := by
  unfold State.deliverHead
  split
  · exact h
  split
  · exact h
  · exact State.BoardsFit.testResetCompletion (h.of_rings rfl)

theorem State.BoardsFit.countLate (h : s.BoardsFit) (r : RingNo) : (s.countLate r).BoardsFit :=
  h.setRing_same rfl rfl rfl

theorem State.BoardsFit.takeExpiries (h : s.BoardsFit) : s.takeExpiries.BoardsFit :=
  foldl_keeps _ State.BoardsFit _ (fun _ g _ hs => hs.countLate g.ring) _ (h.answerHeld _ _)

theorem State.BoardsFit.settleAdvance (h : s.BoardsFit) : s.settleAdvance.BoardsFit := by
  have counted : State.BoardsFit { s with freeCount := s.freeCount + 1 } := h.of_rings rfl
  unfold State.settleAdvance
  dsimp only
  split
  · split
    · exact counted.takeExpiries.takeTimeouts
    · exact counted.takeTimeouts.takeExpiries
  · exact h.takeExpiries.takeTimeouts

theorem State.BoardsFit.refclkCycles (n : Nat) (h : s.BoardsFit) : (s.refclkCycles n).BoardsFit := by
  induction n generalizing s with
  | zero => exact h
  | succ n ih =>
    refine ih (s := s.refclkCycle) ?_
    unfold State.refclkCycle
    split
    · exact h.settleAdvance.of_rings rfl
    · exact h.of_rings rfl

/-! ## Commands and descriptor writes -/

theorem State.BoardsFit.setOutcome (h : s.BoardsFit) (r : RingNo) (o : CommandOutcome) :
    (s.setOutcome r o).BoardsFit := h.setRing_same rfl rfl rfl

theorem State.BoardsFit.takeEnable (h : s.BoardsFit) (r : RingNo) : (s.takeEnable r).BoardsFit := by
  unfold State.takeEnable
  split
  · split
    · exact h.setOutcome r _
    · exact h.setRing (Ring.boardsFit_of_empty rfl rfl rfl)
  · exact h.setOutcome r _

theorem State.BoardsFit.takePause (h : s.BoardsFit) (r : RingNo) : (s.takePause r).BoardsFit := by
  unfold State.takePause
  split
  · have draining : (s.setRing r { s.ring r with state := .draining, outcome := .accepted }).BoardsFit :=
      h.setRing_same rfl rfl rfl
    exact State.BoardsFit.testDrainEnd (draining.answerHeld _ _) r
  · exact h.setOutcome r _

theorem State.BoardsFit.takeResume (h : s.BoardsFit) (r : RingNo) : (s.takeResume r).BoardsFit := by
  unfold State.takeResume
  split
  · exact h.setRing_same rfl rfl rfl
  · exact h.setOutcome r _

theorem State.BoardsFit.takeHalt (h : s.BoardsFit) (r : RingNo) : (s.takeHalt r).BoardsFit := by
  unfold State.takeHalt
  cases (s.ring r).state with
  | active | draining | paused => exact (h.setOutcome r _).enterHalted r
  | off | halted | clearing => exact h.setOutcome r _

theorem State.BoardsFit.takeClear (h : s.BoardsFit) (r : RingNo) : (s.takeClear r).BoardsFit := by
  unfold State.takeClear
  cases (s.ring r).state with
  | active | draining | paused | halted => exact h.beginClear r
  | off | clearing => exact h.setOutcome r _

theorem State.BoardsFit.takeApplyNow (h : s.BoardsFit) (r : RingNo) : (s.takeApplyNow r).BoardsFit := by
  unfold State.takeApplyNow
  dsimp only
  split
  · exact h.setOutcome r _
  split
  · exact h.setOutcome r _
  split
  · have applied : (s.setRing r { (s.ring r).applyShadow with outcome := .accepted }).BoardsFit :=
      h.setRing_same rfl rfl rfl
    have evaluated := applied.evaluateLevel r
    unfold State.applyOnCommand
    dsimp only
    split
    · exact (evaluated.releaseScan _ _).raise _ _ _ _
    · exact evaluated.raise _ _ _ _
  · exact h.setOutcome r _

theorem State.BoardsFit.takeCommand (h : s.BoardsFit) (r : RingNo) (code : BitVec 4) :
    (s.takeCommand r code).BoardsFit := by
  unfold State.takeCommand
  split
  · exact h.takeEnable r
  · exact h.takePause r
  · exact h.takeResume r
  · exact h.takeHalt r
  · exact h.takeClear r
  · exact h.takeApplyNow r
  · exact h.setRing_same rfl rfl rfl
  · exact h.setOutcome r _

theorem State.BoardsFit.writeStructural (h : s.BoardsFit) (r : RingNo) (g : StructuralReg) (v : Word) :
    (s.writeStructural r g v).BoardsFit := by
  unfold State.writeStructural
  dsimp only
  split
  · exact h.setRing_same rfl rfl rfl
  · exact h.of_rings rfl

theorem State.BoardsFit.applyImmediately (h : s.BoardsFit) (r : RingNo) : (s.applyImmediately r).BoardsFit := by
  have attempted := h.setRing (r := r) ((h r).of_retermed (s.ring r).retermed_attemptApply)
  unfold State.applyImmediately
  dsimp only
  split
  · exact attempted.evaluateLevel r
  · exact attempted

theorem State.BoardsFit.writeLive (h : s.BoardsFit) (r : RingNo) (g : LiveReg) (v : Word) :
    (s.writeLive r g v).BoardsFit := by
  have shadowed : (s.setRing r { s.ring r with shadow := (s.ring r).shadow.write g v }).BoardsFit :=
    h.setRing_same rfl rfl rfl
  unfold State.writeLive
  dsimp only
  split
  · exact h.setRing_same rfl rfl rfl
  · exact shadowed.applyImmediately r
  · exact shadowed.applyImmediately r
  all_goals exact h.setRing_same rfl rfl rfl

theorem State.BoardsFit.whileRunning (h : s.BoardsFit) {f : State → State} (keeps : (f s).BoardsFit) :
    (s.whileRunning f).BoardsFit := by
  unfold State.whileRunning
  split
  · exact keeps
  · exact h.of_rings rfl

/-! ## The part reset and the register writes -/

theorem State.BoardsFit.clearForReset (h : s.BoardsFit) (r : RingNo) : (s.clearForReset r).BoardsFit := by
  unfold State.clearForReset
  cases (s.ring r).state with
  | active | draining | paused | halted => exact h.beginClear r
  | off | clearing => exact h

theorem State.BoardsFit.takeResetPart (h : s.BoardsFit) : s.takeResetPart.BoardsFit := by
  unfold State.takeResetPart
  split
  · exact h
  · exact State.BoardsFit.testResetCompletion
      (foldl_keeps _ State.BoardsFit _ (fun _ r _ hs => hs.clearForReset r) _ (h.of_rings rfl))

theorem State.BoardsFit.writeReg (h : s.BoardsFit) (reg : Reg) (v : Word) : (s.writeReg reg v).BoardsFit := by
  unfold State.writeReg
  cases reg with
  | unmapped | identification | tickCount | occupancy | eventHead0 | eventHead1 | status | divider | memoryTimeout
    | passFault | errorFlags | lineEnables => exact h.of_rings rfl
  | eventPop => exact h.of_rings (State.popEvent_rings ..)
  | control =>
    have lost : s.clearLost.BoardsFit := h.of_rings rfl
    unfold State.writeControl
    dsimp only
    split <;> split
    · exact lost.takeResetPart
    · exact h.takeResetPart
    · exact lost
    · exact h
  | structural r g => exact State.BoardsFit.whileRunning h (h.writeStructural r g v)
  | live r g => exact State.BoardsFit.whileRunning h (h.writeLive r g v)
  | command r => exact State.BoardsFit.whileRunning h (h.takeCommand r _)
  | fillCounter r c =>
    refine State.BoardsFit.whileRunning h ?_
    cases c with
    | discard | overtake => exact h.setRing_same rfl rfl rfl
  | lateCounter r => exact h.whileRunning (f := fun s => s.zeroLateCounter r) (h.setRing_same rfl rfl rfl)

theorem State.BoardsFit.completeWrite (h : s.BoardsFit) (a : BitVec 16) (reg : Reg) (v : Word) :
    (s.completeWrite a reg v).BoardsFit := by
  unfold State.completeWrite
  split
  · exact h.of_rings rfl
  · exact (h.writeReg reg v).of_rings rfl

theorem State.BoardsFit.addressed (h : s.BoardsFit) (target : BitVec 7) {f : State → State}
    (keeps : (f s).BoardsFit) : (s.addressed target f).BoardsFit := by
  unfold State.addressed
  split
  · exact h.of_rings rfl
  · exact keeps

theorem State.BoardsFit.outOfReset (h : s.BoardsFit) {f : State → State} (keeps : (f s).BoardsFit) :
    (s.outOfReset f).BoardsFit := by
  unfold State.outOfReset
  split
  · exact h
  · exact keeps

/-- Every command keeps the scoreboards and the poison lists within their sizes. -/
theorem State.BoardsFit.exec {t : State} (h : s.BoardsFit) (c : Instr) (next : exec c s = .next t) : t.BoardsFit := by
  cases c <;> cases next
  case hardwareReset a1 a0 =>
    intro r
    have ring : State.reset.ring r = Ring.reset := Vector.getElem_replicate ..
    exact ring ▸ Ring.boardsFit_of_empty rfl rfl rfl
  case heldInReset cut => exact h.of_rings rfl
  case requestAcceptance q => exact h.outOfReset (h.of_rings (State.acceptRequest_rings ..))
  case writeAdmission => exact h.outOfReset (h.takeOldestAdmission .write fun u x r e hs => hs.takeWrite u x r e)
  case readAdmission => exact h.outOfReset (h.takeOldestAdmission .read fun u x r e hs => hs.takeRead u x r e)
  case reAdmission => exact h.outOfReset h.readmitHead
  case issueHead => exact h.outOfReset h.considerHead
  case memoryResponse id status data => exact h.outOfReset (h.takeResponse id status data)
  case drainEnd r => exact h.outOfReset (h.testDrainEnd r)
  case clearEnd r => exact h.outOfReset (h.testClearEnd r)
  case tick n => exact h.outOfReset (h.refclkCycles n)
  case expiry => exact h.outOfReset h.takeExpiries
  case responseTimeout => exact h.outOfReset h.takeTimeouts
  case responseDelivery => exact h.outOfReset h.deliverHead
  case partResetCompletion => exact h.outOfReset h.testResetCompletion
  case registerWrite target value => exact h.addressed target (h.completeWrite _ _ _)
  case registerPointerSet target address => exact h.addressed target (h.of_rings rfl)
  case partialWriteEnd target stop =>
    refine h.addressed target ?_
    cases stop <;> exact h.of_rings rfl
  case registerRead target bytes => exact h.addressed target (h.of_rings rfl)
  all_goals exact h.completeWrite _ _ _

end

/-- Settles O57: a step executes the front command with the rest of the queue, and every command keeps the bounds
(`State.BoardsFit.exec`). -/
theorem ringsStayBounded : Obligations.RingsStayBounded := by
  intro s t bounded next
  have fits := s.boardsFit_iff.mpr bounded
  rw [← State.boardsFit_iff]
  unfold Machine.step at next
  split at next
  · cases next
    exact fits
  · rename_i c rest _
    have dequeued : State.BoardsFit { s with pending := rest } := fits.of_rings rfl
    exact dequeued.exec c next

end Sys2Proof.Machine
end

section
/-! Write admission: the checks in their order (O19), the admission that finds room (O20) and the one that overtakes
(O22). -/

namespace Sys2Proof.Machine

/-! ## The checks -/

/-- The checks of write admission, one after another: the answers of the states apart from each other, and the two
grounds of OVERLAP (R45, R48). -/
theorem judgeWrite_eq (x : Ring) (master : MasterNo) (e : Extent) :
    judgeWrite x master e =
      if x.state = .halted then .answer .halted
      else if x.state ≠ .active then .answer .stopped
      else if x.active.producerMask.getLsbD master.val = false then .answer .refused
      else if (x.C : Int) < signedDistance x.A x.F e.stop then .answer .range
      else if IsBehind x.A x.F e.start ∨ ∃ f ∈ x.fill, e.Intersects x.A f.extent then .answer .overlap
      else if IsBehind x.A x.F e.stop then .answer .overlap
      else if x.BeyondRoom e.stop ∧ x.active.overrun = .block then .hold
      else if x.BeyondRoom e.stop ∧ x.active.overrun = .discard then .answer .discarded
      else if 12 ≤ x.fill.length then .answer .busy
      else .admitted := by
  have overlap : (IsBehind x.A x.F e.start ∨ IsBehind x.A x.F e.stop
        ∨ x.fill.any (fun f => decide (e.Intersects x.A f.extent)) = true)
      ↔ (IsBehind x.A x.F e.start ∨ ∃ f ∈ x.fill, e.Intersects x.A f.extent) ∨ IsBehind x.A x.F e.stop := by
    simp only [List.any_eq_true, decide_eq_true_eq]
    exact (or_congr_right or_comm).trans or_assoc.symm
  unfold judgeWrite
  by_cases halted : x.state = .halted
  · rw [if_pos (by simp [halted]), if_pos halted, if_pos halted]
  · rw [if_neg halted, if_neg halted]
    simp only [overlap, ite_or]
    rfl

/-- What becomes of a write with each outcome of its checks (R45 to R54). -/
def State.writeOutcome (s : State) (u : TxnNo) (x : Txn) (r : RingNo) (e : Extent) : WriteOutcome → State
  | .answer .refused => (s.setTxn u (some { x with cls := some .reject })).answer u .refused
  | .answer .discarded =>
    (s.setRing r { s.ring r with discardCount := countUp (s.ring r).discardCount }).answer u .discarded
  | .answer status => s.answer u status
  | .hold => s.askHold u x r .room
  | .admitted => s.admitWrite u x r e

theorem State.takeWrite_eq (s : State) (u : TxnNo) (x : Txn) (r : RingNo) (e : Extent) :
    s.takeWrite u x r e =
      if x.cleared then s.answer u .stopped else s.writeOutcome u x r e (judgeWrite (s.ring r) x.master e) := rfl

/-- WRITE_ADMISSION takes the oldest admission when it is a ring write's (R3, R45). -/
theorem exec_writeAdmission {s : State} {u : TxnNo} {rest : List TxnNo} {x : Txn} {r : RingNo} {e : Extent}
    (h0 : s.inReset = false) (awaiting : s.awaiting = u :: rest) (txn : s.txn u = some x)
    (direction : x.direction = .write) (ring : x.ring = some r) (range : x.range = some e) :
    exec .writeAdmission s = .next (State.takeWrite { s with awaiting := rest } u x r e) := by
  simp only [exec, execWriteAdmission, State.outOfReset_of h0]
  rw [s.takeOldestAdmission_of _ awaiting txn direction ring range]

/-- Settles O19: the oldest admission is taken, and each outcome of the checks in their order (`judgeWrite_eq`) is the
one that R46 to R54 give. -/
theorem writeChecksDecideInOrder : Obligations.WriteChecksDecideInOrder := by
  refine ⟨fun s u rest x r e h0 awaiting txn direction ring range =>
    exec_writeAdmission h0 awaiting txn direction ring range, fun s u x r e => ?_⟩
  rw [State.takeWrite_eq, judgeWrite_eq]
  simp only [apply_ite (s.writeOutcome u x r e)]
  rfl

/-! ## An admission -/

section
variable {s : State} {u : TxnNo} {rest : List TxnNo} {x : Txn} {r : RingNo} {e : Extent}

/-- A write that passes every check is admitted (R54). -/
theorem exec_writeAdmission_admitted (h0 : s.inReset = false) (awaiting : s.awaiting = u :: rest)
    (txn : s.txn u = some x) (direction : x.direction = .write) (ring : x.ring = some r) (range : x.range = some e)
    (uncleared : x.cleared = false) (admitted : judgeWrite (s.ring r) x.master e = .admitted) :
    exec .writeAdmission s = .next (State.admitWrite { s with awaiting := rest } u x r e) := by
  rw [exec_writeAdmission h0 awaiting txn direction ring range, State.takeWrite_eq, uncleared]
  exact congrArg (fun o => Host.Outcome.next (State.writeOutcome { s with awaiting := rest } u x r e o)) admitted

/-- An admitted write that ends within the room is placed and queued (R54). -/
theorem State.admitWrite_room (room : ¬ (s.ring r).BeyondRoom e.stop) :
    s.admitWrite u x r e = (s.setRing r ((s.ring r).placeWrite u e)).enqueueParts u x .ring := by
  unfold State.admitWrite
  simp only [room, decide_false, Bool.false_and, Bool.false_eq_true, if_false]

/-- An admitted write that ends beyond the room overtakes before it is queued (R54, R56). -/
theorem State.admitWrite_overtakes (admitted : judgeWrite (s.ring r) x.master e = .admitted)
    (beyond : (s.ring r).BeyondRoom e.stop) :
    s.admitWrite u x r e = ((s.setRing r ((s.ring r).placeWrite u e)).overtake r e.stop).enqueueParts u x .ring := by
  have admits := judgeWrite_says (s.ring r) x.master e
  rw [admitted] at admits
  have policy : (s.ring r).active.overrun = .overtake := admits.room beyond
  unfold State.admitWrite
  simp only [beyond, policy, decide_true, beq_self_eq_true, Bool.and_self, if_true]

end

/-- The operations of a request in at most two parts carry its data, part after part (R12, R54). -/
theorem partOperations_carry (u : TxnNo) {x : Txn} (c : OpClass) (parts : x.parts.length ≤ 2)
    (sum : (x.parts.map Part.length).sum = x.data.length) :
    (partOperations u x c).length = x.parts.length ∧ (partOperations u x c).flatMap Operation.data = x.data := by
  unfold partOperations
  match found : x.parts with
  | [] =>
    rw [found] at sum
    exact ⟨rfl, (List.length_eq_zero_iff.mp sum.symm).symm⟩
  | [p] =>
    rw [found] at sum
    have whole : x.data.length ≤ p.length := by simpa using sum.ge
    exact ⟨rfl, by simp [List.take_of_length_le whole]⟩
  | [p, q] => exact ⟨rfl, by simp⟩
  | _ :: _ :: _ :: _ =>
    rw [found] at parts
    simp at parts

/-- Settles O20: the admission places the write (`Ring.placeWrite_eq`) and puts its parts into the issue queue
(`partOperations_carry`). -/
theorem admittedWriteIsPlacedAndQueued : Obligations.AdmittedWriteIsPlacedAndQueued := by
  intro s u rest x r e h0 awaiting txn direction ringOf range uncleared admitted room ring reach floor
  have next := exec_writeAdmission_admitted h0 awaiting txn direction ringOf range uncleared admitted
  rw [State.admitWrite_room (s := { s with awaiting := rest }) room] at next
  exact ⟨_, next, rfl, fun q ne => State.ring_setRing_ne _ ne _,
    (State.ring_setRing_self _ r _).trans (ring.placeWrite_eq u e), rfl, rfl, partOperations_carry u .ring⟩

/-! ## Events behind an event -/

section
variable (s : State)

/-- A record that is offered to a queue with room stands behind the records that were there (R127). -/
theorem State.offer_records (k : EventKind) (o : Option RingNo) (line : BitVec 2) (p : Option Nat) (c : EventCount)
    (room : s.events.records.length < Config.eventQueueSize) :
    (s.offer k o line p c).events.records = s.events.records ++
      [{ sequence := s.events.nextSequence, kind := k, ring := o, line := line, afterLoss := s.events.markerPending
         position := p, count := c }] := by
  unfold State.offer
  rw [if_pos room]
  rfl

theorem State.offer_records_prefix (k : EventKind) (o : Option RingNo) (line : BitVec 2) (p : Option Nat)
    (c : EventCount) : s.events.records <+: (s.offer k o line p c).events.records := by
  by_cases room : s.events.records.length < Config.eventQueueSize
  · rw [State.offer_records s k o line p c room]
    exact List.prefix_append _ _
  · unfold State.offer
    rw [if_neg room]

theorem State.raise_records_prefix (r : RingNo) (k : EventKind) (p : Option Nat) (c : EventCount) :
    s.events.records <+: (s.raise r k p c).events.records := by
  unfold State.raise
  split
  · exact s.offer_records_prefix _ _ _ _ _
  · exact List.prefix_rfl

/-- A level evaluation leaves the records before its own (R122, R127). -/
theorem State.evaluateLevel_records_prefix (r : RingNo) :
    s.events.records <+: (s.evaluateLevel r).events.records := by
  unfold State.evaluateLevel
  dsimp only
  split <;> split
  · exact State.raise_records_prefix (s.setRing r _) _ _ _ _
  · exact List.prefix_rfl
  · exact State.raise_records_prefix (s.setRing r _) _ _ _ _
  · exact List.prefix_rfl

/-! ## The overtake -/

/-- Held requests that are all answered alike: each of them is READY with the status, however often it is held. -/
theorem State.txn_answerHeld_alike (c : HoldEntry → Bool) (a : Status) (u : TxnNo) :
    (s.answerHeld c fun _ => a).txn u
      = if ∃ h ∈ s.pool.entries, c h = true ∧ h.transaction = u then (s.txn u).map fun y => y.answered a []
        else s.txn u := by
  have fold (l : List HoldEntry) : ∀ s : State, (l.foldl (fun s h => s.answer h.transaction a) s).txn u
      = if ∃ h ∈ l, h.transaction = u then (s.txn u).map fun y => y.answered a [] else s.txn u := by
    induction l with
    | nil => simp
    | cons h l ih =>
      intro s
      rw [List.foldl_cons, ih, State.txn_answer]
      by_cases here : h.transaction = u
      · subst here
        simp only [List.mem_cons, exists_eq_or_imp, if_true, true_or, Option.map_map]
        split <;> rfl
      · simp only [List.mem_cons, exists_eq_or_imp, here, Ne.symm here, false_or, if_false]
  rw [State.txn_answerHeld, fold]
  simp only [List.mem_filter, and_assoc]

/-- The held reads of the ring that start behind its keep floor (R58). -/
def State.isStale (r : RingNo) (h : HoldEntry) : Bool :=
  h.ring = r && h.reason = .underrun &&
    match (s.txn h.transaction).bind Txn.range with
    | some range => decide (IsBehind (s.ring r).A (s.ring r).K range.start)
    | none => false

theorem State.isStale_iff (r : RingNo) (h : HoldEntry) :
    s.isStale r h = true ↔ h.ring = r ∧ h.reason = .underrun
      ∧ ∃ y range, s.txn h.transaction = some y ∧ y.range = some range
        ∧ IsBehind (s.ring r).A (s.ring r).K range.start := by
  unfold State.isStale
  cases txn : s.txn h.transaction with
  | none => simp
  | some y => cases range : y.range <;> simp [range, and_assoc]

variable (r : RingNo) (e : Nat)

/-- The drain side cut back to D1 = e - C and moved over the LANDED entries that then begin there (R56, R57). -/
def Ring.cutBack (x : Ring) (e : Nat) : List ScoreEntry × Nat :=
  absorbDrain (positionBefore x.A e x.C) (cutDrain x.A (positionBefore x.A e x.C) x.drain)

/-- The state in which OVERTAKEN is raised: D moved, the stale reads answered, the overtake counted (R56 to R58). -/
def State.overtaken : State :=
  ((s.setRing r { s.ring r with drain := ((s.ring r).cutBack e).1, D := ((s.ring r).cutBack e).2 }).answerHeld
    (s.isStale r) fun _ => .stale).setRing r { s.ring r with
      drain := ((s.ring r).cutBack e).1, D := ((s.ring r).cutBack e).2
      overtakeCount := countUp (s.ring r).overtakeCount }

theorem State.overtake_eq : s.overtake r e =
    (((s.overtaken r e).raise r .overtaken (some (positionBefore (s.ring r).A e (s.ring r).C))
      (.bytes (distance (s.ring r).A (s.ring r).D (positionBefore (s.ring r).A e (s.ring r).C)))).evaluateLevel
        r).releaseScan r HoldReason.isRoom := by
  unfold State.overtake State.overtaken
  simp only [State.ring_answerHeld, State.ring_setRing_self]
  rfl

/-- What an overtake leaves in the ring (R56, R57, R59). -/
theorem State.ring_overtake_self : (s.overtake r e).ring r = { s.ring r with
    drain := ((s.ring r).cutBack e).1, D := ((s.ring r).cutBack e).2
    overtakeCount := countUp (s.ring r).overtakeCount
    side := Ring.evaluatedSide { s.ring r with D := ((s.ring r).cutBack e).2 } } := by
  rw [State.overtake_eq, State.ring_releaseScan, State.ring_evaluateLevel_self, State.ring_raise, State.overtaken,
    State.ring_setRing_self]
  rfl

theorem State.ring_overtake_ne {q : RingNo} (ne : q ≠ r) : (s.overtake r e).ring q = s.ring q := by
  rw [State.overtake_eq, State.ring_releaseScan, State.ring_evaluateLevel, if_neg ne, State.ring_raise, State.overtaken,
    State.ring_setRing_ne _ ne, State.ring_answerHeld, State.ring_setRing_ne _ ne]

theorem State.releaseScan_slots (examines : HoldReason → Bool) :
    (s.releaseScan r examines).pool.entries.map HoldEntry.slot = s.pool.entries.map HoldEntry.slot := by
  unfold State.releaseScan
  dsimp only
  rw [List.map_map]
  refine List.map_congr_left fun h _ => ?_
  simp only [Function.comp_apply]
  split <;> rfl

/-- An overtake frees the slots of the stale reads (R58). -/
theorem State.overtake_slots : (s.overtake r e).pool.entries.map HoldEntry.slot
    = (s.pool.entries.filter fun h => !s.isStale r h).map HoldEntry.slot := by
  rw [State.overtake_eq, State.releaseScan_slots, State.evaluateLevel_pool, State.raise_pool, State.overtaken,
    State.setRing_pool, State.answerHeld_poolIs, HoldPool.remove_entries]
  rfl

/-- An overtake answers the stale reads STALE and touches no other request (R58). -/
theorem State.txn_overtake (u : TxnNo) : (s.overtake r e).txn u
    = if ∃ h ∈ s.pool.entries, s.isStale r h = true ∧ h.transaction = u
      then (s.txn u).map fun y => y.answered .stale [] else s.txn u := by
  rw [State.overtake_eq, State.txn_releaseScan, State.txn_evaluateLevel, State.txn_raise, State.overtaken,
    State.txn_setRing, State.txn_answerHeld_alike]
  rfl

/-- The first record of an overtake is OVERTAKEN's, when the kind mask includes it and the queue has room (R59, R125,
R127). -/
theorem State.overtake_record (included : (s.ring r).active.includesKind .overtaken = true)
    (room : s.events.records.length < Config.eventQueueSize) :
    (s.overtake r e).events.records[s.events.records.length]? = some
      { sequence := s.events.nextSequence, kind := .overtaken, ring := some r
        line := (s.ring r).active.eventLine, afterLoss := s.events.markerPending
        position := some (positionBefore (s.ring r).A e (s.ring r).C)
        count := .bytes (distance (s.ring r).A (s.ring r).D (positionBefore (s.ring r).A e (s.ring r).C)) } := by
  have events : (s.overtaken r e).events = s.events := by simp [State.overtaken]
  have active : ((s.overtaken r e).ring r).active = (s.ring r).active := by
    rw [State.overtaken, State.ring_setRing_self]
  rw [State.overtake_eq, State.releaseScan_events]
  obtain ⟨later, evaluated⟩ := State.evaluateLevel_records_prefix ((s.overtaken r e).raise r .overtaken
    (some (positionBefore (s.ring r).A e (s.ring r).C))
    (.bytes (distance (s.ring r).A (s.ring r).D (positionBefore (s.ring r).A e (s.ring r).C)))) r
  rw [← evaluated, State.raise, active, if_pos included, State.offer_records _ _ _ _ _ _ (events ▸ room), events,
    List.append_assoc]
  simp

end

/-- The side after an evaluation, written out (the table of R122). -/
theorem Ring.evaluatedSide_eq {x y : Ring} (structural : y.structural = x.structural) (active : y.active = x.active)
    (side : y.side = x.side) (F : y.F = x.F) : y.evaluatedSide = match x.side with
      | .low => if x.active.highMark.toNat ≤ distance x.A y.D x.F then .high else .low
      | .high => if distance x.A y.D x.F ≤ x.active.lowMark.toNat then .low else .high := by
  unfold Ring.evaluatedSide Ring.level
  rw [structural, active, side, F]
  rfl

/-- Settles O22: the write is placed and then overtakes; what the overtake leaves of the ring, the pool, the requests
and the records is `State.ring_overtake_self`, `overtake_slots`, `txn_overtake` and `overtake_record`. -/
theorem overtakeMovesDrainFrontier : Obligations.OvertakeMovesDrainFrontier := by
  intro s u rest x r e h0 awaiting txn direction ringOf range uncleared admitted beyond ring placed d1 after level stale
  have next := exec_writeAdmission_admitted h0 awaiting txn direction ringOf range uncleared admitted
  rw [State.admitWrite_overtakes (s := { s with awaiting := rest }) admitted beyond] at next
  change exec .writeAdmission s = .next (((State.setRing { s with awaiting := rest } r placed).overtake r
    e.stop).enqueueParts u x .ring) at next
  generalize before_eq : State.setRing { s with awaiting := rest } r placed = before at next
  have ring_before : before.ring r = placed := before_eq ▸ State.ring_setRing_self _ r _
  have entries : before.pool.entries = s.pool.entries := before_eq ▸ rfl
  obtain ⟨-, structural, active, side, D, F, drain⟩ := ring.placeWrite_same u e
  have overtakes : placed.overtakeCount = ring.overtakeCount := by simp only [placed, Ring.placeWrite_eq]
  have A : placed.A = ring.A := congrArg Structural.apertureSize structural
  have C : placed.C = ring.C := congrArg Structural.capacity structural
  have d1_eq : positionBefore (before.ring r).A e.stop (before.ring r).C = d1 := by rw [ring_before, A, C]
  have after_eq : (before.ring r).cutBack e.stop = after := by rw [Ring.cutBack, d1_eq, ring_before, A, drain]
  have stale_iff (h : HoldEntry) : before.isStale r h = true ↔ stale h := by
    rw [State.isStale_iff, ring_before, A, ← before_eq]
    rfl
  refine ⟨_, next, ?_, fun q ne => ?_, ?_, F, fun i => ?_, fun h member is_stale other y hy => ?_, ?_, ?_,
    fun included room => ?_⟩
  · rw [← before_eq]
    exact State.eq_of_fields (by simp) (by simp) (by simp) (by simp) rfl (by simp) rfl rfl rfl rfl (by simp) (by simp)
  · rw [State.ring_enqueueParts, State.ring_overtake_ne _ _ _ ne, ← before_eq]
    exact State.ring_setRing_ne _ ne _
  · rw [State.ring_enqueueParts, State.ring_overtake_self, after_eq, ring_before, overtakes]
    exact congrArg (fun d => ({ placed with
      D := after.2, drain := after.1, overtakeCount := countUp ring.overtakeCount, side := d } : Ring))
      (Ring.evaluatedSide_eq (y := { placed with D := after.2 }) structural active side F)
  · have slots := congrArg (i ∈ ·) (before.overtake_slots r e.stop)
    simp only [List.mem_map, List.mem_filter, entries, Bool.not_eq_true', ← Bool.not_eq_true, stale_iff] at slots
    exact (iff_of_eq slots).trans (exists_congr fun h => and_right_comm.trans and_assoc)
  · rw [State.txn_enqueueParts, if_neg other, State.txn_overtake, entries,
      if_pos ⟨h, member, (stale_iff h).mpr is_stale, rfl⟩, ← before_eq]
    exact congrArg (Option.map _) hy
  · rw [State.txn_enqueueParts, if_pos rfl]
  · have mem : (before.overtake r e.stop).mem = s.mem := (before.overtake_mem r e.stop).trans (before_eq ▸ rfl)
    exact congrArg (fun p : MemoryPort => { p with queue := p.queue ++ partOperations u x .ring }) mem
  · have events : before.events = s.events := before_eq ▸ rfl
    have record := before.overtake_record r e.stop
    rw [d1_eq, ring_before, active, A, D, events] at record
    exact (congrArg (fun q : EventQueue => q.records[s.events.records.length]?) (State.enqueueParts_events ..)).trans
      (record included room)

end Sys2Proof.Machine
end

section
/-! Read admission: the read that passes every check (O24) and the read that meets poison (O25). -/

namespace Sys2Proof.Machine

/-! ## A judged read -/

section
variable {s : State} {u : TxnNo} {rest : List TxnNo} {x : Txn} {r : RingNo} {e : Extent}

/-- READ_ADMISSION of a read not marked cleared: its class is set, and its checks decide (R69, R73). -/
theorem exec_readAdmission_judged (h0 : s.inReset = false) (awaiting : s.awaiting = u :: rest)
    (txn : s.txn u = some x) (direction : x.direction = .read) (ring : x.ring = some r) (range : x.range = some e)
    (uncleared : x.cleared = false) {cls : RequestClass} (cls_eq : readClass (s.ring r) x.master = cls)
    {outcome : ReadOutcome} (judged : judgeRead (s.ring r) cls e = outcome) :
    exec .readAdmission s = .next (State.readOutcome
      (State.setTxn { s with awaiting := rest } u (some { x with cls := some cls }))
      u { x with cls := some cls } r (consumePart (s.ring r) cls e) outcome) := by
  subst cls_eq judged
  simp only [exec, execReadAdmission, State.outOfReset_of h0]
  rw [s.takeOldestAdmission_of _ awaiting txn direction ring range, State.takeRead_eq, uncleared]
  rfl

end

/-- Settles O24: the entry that joins the issue queue is written over the one with the class alone, and the ring takes
a drain entry exactly when the read has a consume part. -/
theorem admittedReadIsPlacedAndQueued : Obligations.AdmittedReadIsPlacedAndQueued := by
  intro s u rest x r e h0 awaiting txn direction ringOf range uncleared ring cls admitted
  rw [exec_readAdmission_judged h0 awaiting txn direction ringOf range uncleared rfl admitted]
  simp only [State.readOutcome, State.enqueueParts, State.setTxn, State.setRing, Vector.set_set]
  cases consumePart ring cls e with
  | none => rfl
  | some c => rfl

/-! ## A read that meets poison -/

section
variable (s : State) (u : TxnNo) (r : RingNo)

/-- The request whose entry was just set is answered (R141, R146). -/
theorem State.answer_setTxn (x : Txn) (a : Status) (d : List Byte) :
    (s.setTxn u (some x)).answer u a d = { s with
      sys := { s.sys with
        table := s.sys.table.set u.val (some (x.answered a d))
        readyOrder := s.sys.readyOrder ++ [u] } } := by
  unfold State.answer
  simp only [State.txn_setTxn_self, State.setTxn_setTxn]
  rfl

/-- What the absorption of the drain side leaves of a ring that was just set: the ring up to its side, the whole
state, and that no event, no release and no change of side comes of it while D stays (R86). -/
theorem State.absorbReads_setRing_leaves (x : Ring) :
    let after := absorbDrain x.D x.drain
    let absorbed := s.setRing r { x with D := after.2, drain := after.1 }
    let t := (s.setRing r x).absorbReads r
    t.ring r = { x with D := after.2, drain := after.1, side := (t.ring r).side }
    ∧ t = (if after.2 = x.D then absorbed
        else if x.state = .active then (absorbed.evaluateLevel r).releaseScan r fun w => decide (w = .room)
        else absorbed.evaluateLevel r)
    ∧ (after.2 = x.D → t.pool = s.pool ∧ t.events = s.events ∧ (t.ring r).side = x.side) := by
  intro after absorbed t
  obtain ⟨side, self, side_still⟩ := (s.setRing r x).ring_absorbReads_self r
  rw [State.ring_setRing_self] at self side_still
  have side_eq : (t.ring r).side = side := congrArg Ring.side self
  have value := s.absorbReads_setRing r x
  refine ⟨by rw [side_eq]; exact self, value, fun still => ?_⟩
  have stays : t = absorbed := value.trans (if_pos still)
  exact ⟨(congrArg State.pool stays).trans (s.setRing_pool ..),
    (congrArg State.events stays).trans (s.setRing_events ..), side_eq.trans (side_still still)⟩

/-- A consuming read that meets poison: its consume part enters the drain scoreboard LANDED and merges, and the drain
side absorbs (R81, R85, R86). -/
theorem State.poisonedRead_some (c : Extent) :
    s.poisonedRead u r (some c) = ((s.answer u .poisoned).setRing r { s.ring r with
      drain := mergeLanded (insertEntry (s.ring r).A (s.ring r).D
        { extent := c, state := .landed, transactions := [u] } (s.ring r).drain) }).absorbReads r := by
  simp only [State.poisonedRead, State.ring_answer]
  rfl

/-- What a read that meets poison changes in the system port is its answer (R81). -/
theorem State.poisonedRead_sys (part : Option Extent) : (s.poisonedRead u r part).sys = (s.answer u .poisoned).sys := by
  cases part with
  | none => rfl
  | some c => rw [State.poisonedRead_some, State.absorbReads_sys, State.setRing_sys]

theorem State.ring_poisonedRead_ne {q : RingNo} (ne : q ≠ r) (part : Option Extent) :
    (s.poisonedRead u r part).ring q = s.ring q := by
  cases part with
  | none => exact State.ring_answer ..
  | some c =>
    rw [State.poisonedRead_some, State.ring_absorbReads_ne _ ne, State.ring_setRing_ne _ ne, State.ring_answer]

end

/-- Settles O25: the read is answered, and its consume part, where it has one, is absorbed as a landed one
(`State.poisonedRead_some`, `State.absorbReads_setRing_leaves`). -/
theorem poisonedReadConsumes : Obligations.PoisonedReadConsumes := by
  intro s u rest x r e h0 awaiting txn direction ringOf range uncleared ring cls poisoned
  have next := exec_readAdmission_judged h0 awaiting txn direction ringOf range uncleared rfl poisoned
  generalize before_eq : State.setTxn { s with awaiting := rest } u (some { x with cls := some cls }) = before at next
  have answer : before.answer u .poisoned = { s with
      awaiting := rest
      sys := { s.sys with
        table := s.sys.table.set u.val
          (some { x with cls := some cls, stage := .ready, status := some .poisoned, data := [] })
        readyOrder := s.sys.readyOrder ++ [u] } } := before_eq ▸ State.answer_setTxn ..
  have ring_before (q : RingNo) : before.ring q = s.ring q := before_eq ▸ rfl
  generalize consumePart ring cls e = part at next ⊢
  have sys := (before.poisonedRead_sys u r part).trans (congrArg State.sys answer)
  refine ⟨_, next, ?_, ?_, ?_, fun q ne => (before.ring_poisonedRead_ne u r ne part).trans (ring_before q), ?_⟩
  · rw [State.readOutcome, ← before_eq]
    exact State.eq_of_fields (by simp) (by simp) (by simp) (by simp) rfl (by simp) rfl rfl (by simp) rfl (by simp)
      (by simp)
  · exact (congrArg (fun p : SystemPort => p.table[u.val]) sys).trans (Vector.getElem_set_self _)
  · exact congrArg SystemPort.readyOrder sys
  · cases part with
    | none =>
      rw [State.readOutcome, State.poisonedRead, answer]
      exact ⟨rfl, rfl, rfl⟩
    | some c =>
      rw [State.readOutcome, State.poisonedRead_some, answer, ring_before]
      exact State.absorbReads_setRing_leaves ..

end Sys2Proof.Machine
end

section
/-! The hold pool's form and its entries' rings: every event keeps one entry to a slot, the released list the RELEASED
entries, and every held entry in a ring that is ACTIVE (O58). -/

namespace Sys2Proof.Machine

/-- The pool has its form, and every entry's ring is ACTIVE (R91, R93). -/
structure State.PoolFits (s : State) : Prop where
  form : s.pool.WellFormed
  active : s.HeldOnlyActive

section
variable {s s' : State}

/-! ## Changes -/

/-- The changes of an event: some entries leave the pool, and the ring of every other entry stays ACTIVE. -/
theorem State.PoolFits.leave (h : s.PoolFits) {chosen : HoldEntry → Bool}
    (pool : s'.pool = s.pool.remove (s.pool.entries.filter chosen))
    (stays : ∀ r, (∃ g ∈ s.pool.entries, g.ring = r ∧ chosen g = false) → (s.ring r).state = .active →
      (s'.ring r).state = .active) : s'.PoolFits where
  form := pool ▸ h.form.remove fun _ hg => (List.mem_filter.mp hg).1
  active := by
    intro g hg
    rw [pool, HoldPool.remove_entries, List.mem_filter, Bool.not_eq_true'] at hg
    exact stays g.ring ⟨g, hg.1, rfl, hg.2⟩ (h.active g hg.1)

/-- A change that leaves the pool alone and every ACTIVE ring ACTIVE. -/
theorem State.PoolFits.of_pool (h : s.PoolFits) (pool : s'.pool = s.pool)
    (stays : ∀ r, (s.ring r).state = .active → (s'.ring r).state = .active) : s'.PoolFits where
  form := pool ▸ h.form
  active := fun g hg => stays g.ring (h.active g (pool ▸ hg))

/-- A change that leaves the pool and the rings alone. -/
theorem State.PoolFits.of_fields (h : s.PoolFits) (pool : s'.pool = s.pool := by rfl)
    (rings : s'.rings = s.rings := by rfl) : s'.PoolFits :=
  h.of_pool pool fun r active => State.ring_congr rings r ▸ active

/-- A change of one ring that does not leave ACTIVE by it. -/
theorem State.PoolFits.one (h : s.PoolFits) {r : RingNo} (pool : s'.pool = s.pool)
    (stays : (s.ring r).state = .active → (s'.ring r).state = .active)
    (others : ∀ q, q ≠ r → s'.ring q = s.ring q) : s'.PoolFits := by
  refine h.of_pool pool fun q active => ?_
  by_cases same : q = r
  · subst same
    exact stays active
  · rwa [others q same]

theorem State.PoolFits.setRing (h : s.PoolFits) {r : RingNo} {y : Ring}
    (stays : (s.ring r).state = .active → y.state = .active) : (s.setRing r y).PoolFits :=
  h.one (r := r) rfl (by rwa [State.ring_setRing_self]) fun q ne => State.ring_setRing_ne s ne y

/-- A change of a ring's other fields. -/
theorem State.PoolFits.setRing_same (h : s.PoolFits) {r : RingNo} {y : Ring} (state : y.state = (s.ring r).state) :
    (s.setRing r y).PoolFits := h.setRing fun active => state.trans active

/-- A ring may leave ACTIVE in an event that answers its hold list (R103). -/
theorem State.PoolFits.vacate (h : s.PoolFits) {r : RingNo}
    (pool : s'.pool = s.pool.remove (s.pool.entries.filter fun g => g.ring = r))
    (others : ∀ q, q ≠ r → s'.ring q = s.ring q) : s'.PoolFits := by
  refine h.leave pool fun q held active => ?_
  obtain ⟨g, -, ring, stays⟩ := held
  rwa [others q (ring ▸ of_decide_eq_false stays)]

/-! ## The pool -/

theorem State.PoolFits.answer (h : s.PoolFits) (u : TxnNo) (a : Status) (d : List Byte) : (s.answer u a d).PoolFits :=
  h.of_fields (State.answer_pool ..) (State.answer_rings ..)

theorem State.PoolFits.enqueueParts (h : s.PoolFits) (u : TxnNo) (x : Txn) (c : OpClass) :
    (s.enqueueParts u x c).PoolFits := h.of_fields

theorem State.PoolFits.raise (h : s.PoolFits) (r : RingNo) (k : EventKind) (p : Option Nat) (c : EventCount) :
    (s.raise r k p c).PoolFits := h.of_fields (State.raise_pool ..) (State.raise_rings ..)

theorem State.PoolFits.answerHeld (h : s.PoolFits) (chosen : HoldEntry → Bool) (status : HoldEntry → Status) :
    (s.answerHeld chosen status).PoolFits :=
  h.leave (State.answerHeld_poolIs ..) fun r _ active => by rwa [State.ring_answerHeld]

theorem State.PoolFits.releaseScan (h : s.PoolFits) (r : RingNo) (examines : HoldReason → Bool) :
    (s.releaseScan r examines).PoolFits where
  form := State.releaseScan_wellFormed s h.form r examines
  active := by
    intro g hg
    obtain ⟨g', hg', rfl⟩ := List.mem_map.mp hg
    rw [State.ring_releaseScan]
    split
    · exact h.active g' hg'
    · exact h.active g' hg'

/-- A hold is asked for a ring in ACTIVE alone (R91, R94). -/
theorem State.PoolFits.askHold (h : s.PoolFits) {r : RingNo} (active : (s.ring r).state = .active) (u : TxnNo) (x : Txn)
    (w : HoldReason) : (s.askHold u x r w).PoolFits := by
  unfold State.askHold
  split
  · split
    · rename_i slot free
      refine ⟨h.form.grant (HoldPool.freeSlot_spec free) rfl _, fun g hg => ?_⟩
      rw [State.ring_grantHold]
      rcases List.mem_append.mp hg with held | granted
      · exact h.active g held
      · rw [List.mem_singleton.mp granted]
        exact active
    · exact h.answer _ _ _
  · exact h.answer _ _ _

/-! ## The ring engine -/

theorem State.PoolFits.evaluateLevel (h : s.PoolFits) (r : RingNo) : (s.evaluateLevel r).PoolFits :=
  h.one (r := r) (State.evaluateLevel_pool ..) (by rw [State.ring_evaluateLevel_self]; exact id)
    fun q ne => by rw [State.ring_evaluateLevel, if_neg ne]

theorem State.PoolFits.testDrainEnd (h : s.PoolFits) (r : RingNo) : (s.testDrainEnd r).PoolFits :=
  h.of_pool (State.testDrainEnd_pool ..) fun q active => by
    rw [State.ring_testDrainEnd, if_neg]
    · exact active
    · rintro ⟨rfl, draining, -⟩
      rw [active] at draining
      cases draining

theorem State.PoolFits.testClearEnd (h : s.PoolFits) (r : RingNo) : (s.testClearEnd r).PoolFits :=
  h.of_pool (State.testClearEnd_pool ..) fun q active => by
    rw [State.ring_testClearEnd, if_neg]
    · exact active
    · rintro ⟨rfl, clearing, -⟩
      rw [active] at clearing
      cases clearing

theorem State.PoolFits.testResetCompletion (h : s.PoolFits) : s.testResetCompletion.PoolFits := by
  refine h.of_pool (State.testResetCompletion_pool ..) fun r active => ?_
  unfold State.testResetCompletion
  split
  · rw [State.ring_emptyEvents, State.ring, mapPlaces_get]
    exact active
  · exact active

theorem State.PoolFits.beginClear (h : s.PoolFits) (r : RingNo) : (s.beginClear r).PoolFits := by
  refine h.vacate (r := r) ?_ fun q ne => by rw [State.ring_beginClear, if_neg ne]
  rw [State.beginClear, State.testClearEnd_pool, State.setRing_pool]
  exact State.answerHeld_poolIs ..

theorem State.PoolFits.enterHalted (h : s.PoolFits) (r : RingNo) : (s.enterHalted r).PoolFits := by
  refine h.vacate (r := r) ?_ fun q ne => by rw [State.ring_enterHalted, if_neg ne]
  rw [State.enterHalted_eq, State.raise_pool]
  exact State.answerHeld_poolIs ..

theorem State.PoolFits.attemptApply (h : s.PoolFits) (r : RingNo) : (s.setRing r (s.ring r).attemptApply).PoolFits :=
  h.setRing_same (s.ring r).attemptApply_state

theorem State.PoolFits.finishWriteEnd (h : s.PoolFits) (r : RingNo) (f0 : Nat) : (s.finishWriteEnd r f0).PoolFits := by
  unfold State.finishWriteEnd
  extract_lets x moved boundary applied s1 s2 s3 s4
  have h1 : s1.PoolFits := iteInduction (motive := State.PoolFits) (fun _ => h.attemptApply r) fun _ => h
  have h2 : s2.PoolFits := iteInduction (motive := State.PoolFits) (fun _ => h1.evaluateLevel r) fun _ => h1
  have h3 : s3.PoolFits := iteInduction (motive := State.PoolFits) (fun _ => h2.releaseScan r _) fun _ => h2
  have h4 : s4.PoolFits := iteInduction (motive := State.PoolFits) (fun _ => h3.raise _ _ _ _) fun _ => h3
  exact h4.testDrainEnd r

theorem State.PoolFits.absorbWrites (h : s.PoolFits) (r : RingNo) : (s.absorbWrites r).PoolFits := by
  rw [State.absorbWrites_eq]
  refine State.PoolFits.finishWriteEnd ?_ r _
  unfold State.settleWrites
  extract_lets x a poisoned
  have h1 : poisoned.PoolFits :=
    foldl_keeps _ State.PoolFits _ (fun _ e _ hs => hs.raise r _ _ _) _ (h.setRing_same rfl)
  exact iteInduction (motive := State.PoolFits) (fun _ => h1.enterHalted r) fun _ => h1

theorem State.PoolFits.absorbReads (h : s.PoolFits) (r : RingNo) : (s.absorbReads r).PoolFits := by
  unfold State.absorbReads
  extract_lets x a s1 s2
  have h1 : s1.PoolFits := h.setRing_same rfl
  have h2 : s2.PoolFits := h1.evaluateLevel r
  split
  · exact h1
  split
  · exact h2.releaseScan r _
  · exact h2

theorem State.PoolFits.endWrite (h : s.PoolFits) (r : RingNo) (u : TxnNo) (ok : Bool) :
    (s.endWrite r u ok).PoolFits := by
  unfold State.endWrite
  extract_lets x fill s1 s2
  have h1 : s1.PoolFits := h.setRing_same rfl
  have h2 : s2.PoolFits := h1.answer _ _ _
  split
  · exact h2.absorbWrites r
  · exact h2

theorem State.PoolFits.endRead (h : s.PoolFits) (r : RingNo) (u : TxnNo) (ok : Bool) (data : List Byte) :
    (s.endRead r u ok data).PoolFits := by
  have answered (a : Status) (d : List Byte) (drain : List ScoreEntry) :
      ((s.answer u a d).setRing r { s.ring r with drain := drain }).PoolFits :=
    (h.answer u a d).setRing_same (by rw [State.ring_answer])
  unfold State.endRead
  dsimp only
  split
  · split
    · split
      · exact (answered _ _ _).absorbReads r
      · exact answered _ _ _
    · exact h.answer _ _ _
  · exact answered _ _ _

/-! ## Admissions -/

theorem State.PoolFits.overtake (h : s.PoolFits) (r : RingNo) (e : Nat) : (s.overtake r e).PoolFits := by
  rw [State.overtake_eq]
  have overtaken : (s.overtaken r e).PoolFits := by
    have cut : (s.setRing r { s.ring r with
        drain := ((s.ring r).cutBack e).1, D := ((s.ring r).cutBack e).2 }).PoolFits := h.setRing_same rfl
    exact (cut.answerHeld (s.isStale r) _).setRing_same (by rw [State.ring_answerHeld, State.ring_setRing_self])
  exact ((overtaken.raise _ _ _ _).evaluateLevel r).releaseScan _ _

theorem State.PoolFits.takeWrite (h : s.PoolFits) (u : TxnNo) (x : Txn) (r : RingNo) (e : Extent) :
    (s.takeWrite u x r e).PoolFits := by
  have verdict := judgeWrite_says (s.ring r) x.master e
  unfold State.takeWrite
  split
  · exact h.answer _ _ _
  split
  · have rejected : (s.setTxn u (some { x with cls := some .reject })).PoolFits := h.of_fields
    exact rejected.answer _ _ _
  · have counted : (s.setRing r
        { s.ring r with discardCount := countUp (s.ring r).discardCount }).PoolFits := h.setRing_same rfl
    exact counted.answer _ _ _
  · exact h.answer _ _ _
  · rename_i held
    rw [held] at verdict
    exact h.askHold verdict u x .room
  · have placed : (s.setRing r ((s.ring r).placeWrite u e)).PoolFits :=
      h.setRing_same (by rw [Ring.placeWrite_eq])
    unfold State.admitWrite
    dsimp only
    split
    · exact (placed.overtake r e.stop).enqueueParts _ _ _
    · exact placed.enqueueParts _ _ _

theorem State.PoolFits.poisonedRead (h : s.PoolFits) (u : TxnNo) (r : RingNo) (part : Option Extent) :
    (s.poisonedRead u r part).PoolFits := by
  have answered : (s.answer u .poisoned).PoolFits := h.answer _ _ _
  cases part with
  | none => exact answered
  | some c =>
    rw [State.poisonedRead_some]
    exact (answered.setRing_same (by rw [State.ring_answer])).absorbReads r

theorem State.PoolFits.takeRead (h : s.PoolFits) (u : TxnNo) (x : Txn) (r : RingNo) (e : Extent) :
    (s.takeRead u x r e).PoolFits := by
  rw [State.takeRead_eq]
  generalize readClass (s.ring r) x.master = cls
  have classed : (s.setTxn u (some { x with cls := some cls })).PoolFits := h.of_fields
  have verdict := judgeRead_says (s.ring r) cls e
  split
  · exact classed.answer _ _ _
  · cases judged : judgeRead (s.ring r) cls e with
    | answer status => exact classed.answer _ _ _
    | hold =>
      rw [judged] at verdict
      exact classed.askHold verdict _ _ _
    | poisoned => exact classed.poisonedRead _ _ _
    | admitted =>
      exact (classed.setRing_same (r := r) (by rw [Ring.placeRead_eq])).enqueueParts _ _ _

theorem State.PoolFits.takeOldestAdmission (h : s.PoolFits) (direction : Direction)
    {take : State → TxnNo → Txn → RingNo → Extent → State}
    (keeps : ∀ {s : State} (u : TxnNo) (x : Txn) (r : RingNo) (e : Extent), s.PoolFits → (take s u x r e).PoolFits) :
    (s.takeOldestAdmission direction take).PoolFits := by
  unfold State.takeOldestAdmission
  split
  · exact h
  split
  · exact h
  split
  · split
    · exact keeps _ _ _ _ h.of_fields
    · exact h
  · exact h

/-- A re-admitted request's entry leaves the pool before the checks (R99). -/
theorem State.PoolFits.readmitHead (h : s.PoolFits) : s.readmitHead.PoolFits := by
  unfold State.readmitHead
  split
  swap
  · exact h
  split
  · exact h
  split
  · exact h
  rename_i g found
  have removed : State.PoolFits { s with pool := s.pool.remove [g] } :=
    ⟨h.form.remove fun k hk => List.mem_singleton.mp hk ▸ List.mem_of_find?_eq_some found,
      fun k hk => h.active k (List.mem_of_mem_filter hk)⟩
  unfold State.admitHeld
  split
  · exact removed
  split
  · exact removed
  split
  · exact removed.takeWrite _ _ _ _
  · exact removed.takeRead _ _ _ _

/-! ## The ports and the timebase -/

theorem State.PoolFits.considerHead (h : s.PoolFits) : s.considerHead.PoolFits := by
  unfold State.considerHead
  split
  · exact h
  split
  · exact State.PoolFits.testResetCompletion (State.PoolFits.answer h.of_fields _ _ _)
  split
  · exact h
  split
  · exact h
  · exact h.of_fields (State.issue_pool ..) (State.issue_rings ..)

theorem State.PoolFits.reportEnd (h : s.PoolFits) (u : TxnNo) (p : PartNo) (e : OpEnd) :
    (s.reportEnd u p e).PoolFits := by
  cases txn : s.txn u with
  | none =>
    simp only [State.reportEnd, txn]
    exact h.testResetCompletion
  | some x =>
    have recorded : (s.setTxn u (some (x.endPart p e))).PoolFits := h.of_fields
    cases ring : x.ring with
    | none =>
      rw [State.reportEnd_passThrough s txn ring]
      refine State.PoolFits.testResetCompletion ?_
      split
      · exact recorded.of_fields (State.endPassThrough_pool ..) (State.endPassThrough_rings ..)
      · exact recorded
    | some r =>
      rw [State.reportEnd_ring s txn ring]
      refine State.PoolFits.testResetCompletion (State.PoolFits.testClearEnd ?_ r)
      split
      · unfold State.endRingRequest
        split
        · exact recorded.endWrite _ _ _
        · exact recorded.endRead _ _ _ _
      · exact recorded

theorem State.PoolFits.takeResponse (h : s.PoolFits) (id : BitVec 6) (status : MemoryStatus) (data : List Byte) :
    (s.takeResponse id status data).PoolFits := by
  unfold State.takeResponse
  split
  · exact h
  rename_i o _
  have freed : (s.freeOperation o.id).PoolFits := h.of_fields
  split
  · exact freed
  split
  · have counted : ((s.countMissing o.length data).freeOperation o.id).PoolFits :=
      h.of_fields (State.countMissing_pool ..) (State.countMissing_rings ..)
    exact counted.reportEnd _ _ _
  · exact freed.reportEnd _ _ _
  · exact freed.reportEnd _ _ _

theorem State.PoolFits.takeTimeouts (h : s.PoolFits) : s.takeTimeouts.PoolFits :=
  foldl_keeps _ State.PoolFits _ (fun s o _ hs =>
    State.PoolFits.reportEnd (s := s.orphan o.id) hs.of_fields o.transaction o.part .failed) _ h

theorem State.PoolFits.deliverHead (h : s.PoolFits) : s.deliverHead.PoolFits := by
  unfold State.deliverHead
  split
  · exact h
  split
  · exact h
  · exact State.PoolFits.testResetCompletion h.of_fields

theorem State.PoolFits.countLate (h : s.PoolFits) (r : RingNo) : (s.countLate r).PoolFits := h.setRing_same rfl

theorem State.PoolFits.takeExpiries (h : s.PoolFits) : s.takeExpiries.PoolFits :=
  foldl_keeps _ State.PoolFits _ (fun _ g _ hs => hs.countLate g.ring) _ (h.answerHeld _ _)

theorem State.PoolFits.settleAdvance (h : s.PoolFits) : s.settleAdvance.PoolFits := by
  have counted : State.PoolFits { s with freeCount := s.freeCount + 1 } := h.of_fields
  unfold State.settleAdvance
  dsimp only
  split
  · split
    · exact counted.takeExpiries.takeTimeouts
    · exact counted.takeTimeouts.takeExpiries
  · exact h.takeExpiries.takeTimeouts

theorem State.PoolFits.refclkCycles (n : Nat) (h : s.PoolFits) : (s.refclkCycles n).PoolFits := by
  induction n generalizing s with
  | zero => exact h
  | succ n ih =>
    refine ih (s := s.refclkCycle) ?_
    unfold State.refclkCycle
    split
    · exact h.settleAdvance.of_fields
    · exact h.of_fields

/-! ## Commands and descriptor writes -/

theorem State.PoolFits.setOutcome (h : s.PoolFits) (r : RingNo) (o : CommandOutcome) : (s.setOutcome r o).PoolFits :=
  h.setRing_same rfl

theorem State.PoolFits.takeEnable (h : s.PoolFits) (r : RingNo) : (s.takeEnable r).PoolFits := by
  unfold State.takeEnable
  split
  · split
    · exact h.setOutcome r _
    · exact h.setRing fun _ => rfl
  · exact h.setOutcome r _

theorem State.PoolFits.takePause (h : s.PoolFits) (r : RingNo) : (s.takePause r).PoolFits := by
  unfold State.takePause
  split
  · have answered : ((s.setRing r { s.ring r with state := .draining, outcome := .accepted }).answerHoldList r
        pauseAnswer).PoolFits :=
      h.vacate (State.answerHeld_poolIs ..) fun q ne => by rw [State.ring_answerHoldList, State.ring_setRing_ne s ne]
    exact answered.testDrainEnd r
  · exact h.setOutcome r _

theorem State.PoolFits.takeResume (h : s.PoolFits) (r : RingNo) : (s.takeResume r).PoolFits := by
  unfold State.takeResume
  split
  · exact h.setRing fun _ => rfl
  · exact h.setOutcome r _

theorem State.PoolFits.takeHalt (h : s.PoolFits) (r : RingNo) : (s.takeHalt r).PoolFits := by
  unfold State.takeHalt
  cases (s.ring r).state with
  | active | draining | paused => exact (h.setOutcome r _).enterHalted r
  | off | halted | clearing => exact h.setOutcome r _

theorem State.PoolFits.takeClear (h : s.PoolFits) (r : RingNo) : (s.takeClear r).PoolFits := by
  unfold State.takeClear
  cases (s.ring r).state with
  | active | draining | paused | halted => exact h.beginClear r
  | off | clearing => exact h.setOutcome r _

theorem State.PoolFits.takeApplyNow (h : s.PoolFits) (r : RingNo) : (s.takeApplyNow r).PoolFits := by
  have applied : (s.setRing r { (s.ring r).applyShadow with outcome := .accepted }).PoolFits := h.setRing_same rfl
  have evaluated := applied.evaluateLevel r
  unfold State.takeApplyNow
  dsimp only
  split
  · exact h.setOutcome r _
  split
  · exact h.setOutcome r _
  split
  · unfold State.applyOnCommand
    dsimp only
    split
    · exact (evaluated.releaseScan _ _).raise _ _ _ _
    · exact evaluated.raise _ _ _ _
  · exact h.setOutcome r _

theorem State.PoolFits.takeCommand (h : s.PoolFits) (r : RingNo) (code : BitVec 4) :
    (s.takeCommand r code).PoolFits := by
  unfold State.takeCommand
  split
  · exact h.takeEnable r
  · exact h.takePause r
  · exact h.takeResume r
  · exact h.takeHalt r
  · exact h.takeClear r
  · exact h.takeApplyNow r
  · exact h.setRing_same rfl
  · exact h.setOutcome r _

theorem State.PoolFits.writeStructural (h : s.PoolFits) (r : RingNo) (g : StructuralReg) (v : Word) :
    (s.writeStructural r g v).PoolFits := by
  unfold State.writeStructural
  dsimp only
  split
  · exact h.setRing_same rfl
  · exact h.of_fields

theorem State.PoolFits.applyImmediately (h : s.PoolFits) (r : RingNo) : (s.applyImmediately r).PoolFits :=
  iteInduction (motive := State.PoolFits) (fun _ => (h.attemptApply r).evaluateLevel r) fun _ => h.attemptApply r

theorem State.PoolFits.writeLive (h : s.PoolFits) (r : RingNo) (g : LiveReg) (v : Word) :
    (s.writeLive r g v).PoolFits := by
  have shadowed : (s.setRing r { s.ring r with shadow := (s.ring r).shadow.write g v }).PoolFits := h.setRing_same rfl
  unfold State.writeLive
  dsimp only
  split
  · exact h.setRing_same rfl
  · exact shadowed.applyImmediately r
  · exact shadowed.applyImmediately r
  all_goals exact h.setRing_same rfl

theorem State.PoolFits.whileRunning (h : s.PoolFits) {f : State → State} (keeps : (f s).PoolFits) :
    (s.whileRunning f).PoolFits :=
  iteInduction (motive := State.PoolFits) (fun _ => keeps) fun _ => h.of_fields

/-! ## The part reset and the register writes -/

theorem State.PoolFits.clearForReset (h : s.PoolFits) (r : RingNo) : (s.clearForReset r).PoolFits := by
  unfold State.clearForReset
  cases (s.ring r).state with
  | active | draining | paused | halted => exact h.beginClear r
  | off | clearing => exact h

theorem State.PoolFits.takeResetPart (h : s.PoolFits) : s.takeResetPart.PoolFits := by
  unfold State.takeResetPart
  split
  · exact h
  · exact State.PoolFits.testResetCompletion
      (foldl_keeps _ State.PoolFits _ (fun _ r _ hs => hs.clearForReset r) _ h.of_fields)

theorem State.PoolFits.writeControl (h : s.PoolFits) (v : Word) : (s.writeControl v).PoolFits := by
  unfold State.writeControl
  extract_lets cleared
  have h1 : cleared.PoolFits := iteInduction (motive := State.PoolFits) (fun _ => h.of_fields) fun _ => h
  exact iteInduction (motive := State.PoolFits) (fun _ => h1.takeResetPart) fun _ => h1

theorem State.PoolFits.writeReg (h : s.PoolFits) (reg : Reg) (v : Word) : (s.writeReg reg v).PoolFits := by
  unfold State.writeReg
  cases reg with
  | unmapped | identification | tickCount | occupancy | eventHead0 | eventHead1 | status | divider | memoryTimeout
    | passFault | errorFlags | lineEnables => exact h.of_fields
  | eventPop => exact h.of_fields (State.popEvent_pool ..) (State.popEvent_rings ..)
  | control => exact h.writeControl v
  | structural r g => exact State.PoolFits.whileRunning h (h.writeStructural r g v)
  | live r g => exact State.PoolFits.whileRunning h (h.writeLive r g v)
  | command r => exact State.PoolFits.whileRunning h (h.takeCommand r _)
  | fillCounter r c =>
    refine State.PoolFits.whileRunning h ?_
    cases c with
    | discard | overtake => exact h.setRing_same rfl
  | lateCounter r => exact h.whileRunning (f := fun s => s.zeroLateCounter r) (h.setRing_same rfl)

theorem State.PoolFits.completeWrite (h : s.PoolFits) (a : BitVec 16) (reg : Reg) (v : Word) :
    (s.completeWrite a reg v).PoolFits :=
  iteInduction (motive := State.PoolFits) (fun _ => h.of_fields) fun _ => (h.writeReg reg v).of_fields

/-! ## Every command -/

theorem State.PoolFits.addressed (h : s.PoolFits) (target : BitVec 7) {f : State → State} (keeps : (f s).PoolFits) :
    (s.addressed target f).PoolFits :=
  iteInduction (motive := State.PoolFits) (fun _ => h.of_fields) fun _ => keeps

theorem State.PoolFits.outOfReset (h : s.PoolFits) {f : State → State} (keeps : (f s).PoolFits) :
    (s.outOfReset f).PoolFits :=
  iteInduction (motive := State.PoolFits) (fun _ => h) fun _ => keeps

/-- Every command keeps the pool's form and every held entry in an ACTIVE ring. -/
theorem State.PoolFits.exec {t : State} (h : s.PoolFits) (c : Instr) (next : exec c s = .next t) : t.PoolFits := by
  cases c <;> cases next
  case hardwareReset a1 a0 => exact ⟨⟨List.nodup_nil, List.nodup_nil, by simp [State.reset, HoldPool.reset]⟩, nofun⟩
  case heldInReset cut => exact h.of_fields
  case requestAcceptance q =>
    exact h.outOfReset (h.of_fields (State.acceptRequest_pool ..) (State.acceptRequest_rings ..))
  case writeAdmission => exact h.outOfReset (h.takeOldestAdmission .write fun u x r e hs => hs.takeWrite u x r e)
  case readAdmission => exact h.outOfReset (h.takeOldestAdmission .read fun u x r e hs => hs.takeRead u x r e)
  case reAdmission => exact h.outOfReset h.readmitHead
  case issueHead => exact h.outOfReset h.considerHead
  case memoryResponse id status data => exact h.outOfReset (h.takeResponse id status data)
  case drainEnd r => exact h.outOfReset (h.testDrainEnd r)
  case clearEnd r => exact h.outOfReset (h.testClearEnd r)
  case tick n => exact h.outOfReset (h.refclkCycles n)
  case expiry => exact h.outOfReset h.takeExpiries
  case responseTimeout => exact h.outOfReset h.takeTimeouts
  case responseDelivery => exact h.outOfReset h.deliverHead
  case partResetCompletion => exact h.outOfReset h.testResetCompletion
  case registerWrite target value => exact h.addressed target (h.completeWrite _ _ _)
  case registerPointerSet target address => exact h.addressed target h.of_fields
  case partialWriteEnd target stop =>
    refine h.addressed target ?_
    cases stop <;> exact h.of_fields
  case registerRead target bytes => exact h.addressed target h.of_fields
  all_goals exact h.completeWrite _ _ _

end

/-- Settles O58: a step executes the front command with the rest of the queue, and every command keeps the pool's form
and the rings of its entries ACTIVE (`State.PoolFits.exec`). -/
theorem holdPoolStaysWellFormed : Obligations.HoldPoolStaysWellFormed := by
  intro s t ⟨form, active⟩ next
  have fits : s.PoolFits := ⟨form, active⟩
  have kept : t.PoolFits := by
    unfold Machine.step at next
    split at next
    · cases next
      exact fits
    · rename_i c rest _
      have dequeued : State.PoolFits { s with pending := rest } := fits.of_fields
      exact dequeued.exec c next
  exact ⟨kept.form, kept.active⟩

end Sys2Proof.Machine
end

section
/-! The hold pool's operations: an answer and a hold (O17), held requests that are answered on a change of their ring's
state (O18) or at their deadline (O36), a release scan (O51), and a re-admission (O26). -/

namespace Sys2Proof.Machine

/-! ## A hold that is asked -/

section
variable (s : State)

/-- An answer to a request that is in the table (R141, R146). -/
theorem State.answer_of_some {u : TxnNo} {x : Txn} (txn : s.txn u = some x) (a : Status) (d : List Byte) :
    s.answer u a d = { s with sys := { s.sys with
      table := s.sys.table.set u.val (some { x with stage := .ready, status := some a, data := d })
      readyOrder := s.sys.readyOrder ++ [u] } } := by
  simp only [State.answer, txn]
  rfl

theorem HoldPool.freeSlot_of_full {p : HoldPool} (full : ∀ i : SlotNo, ∃ h ∈ p.entries, h.slot = i) :
    p.freeSlot = none := by
  cases free : p.freeSlot with
  | none => rfl
  | some i =>
    obtain ⟨h, hm, taken⟩ := full i
    exact absurd taken (HoldPool.freeSlot_spec free h hm)

variable (u : TxnNo) (x : Txn) {r : RingNo} (w : HoldReason)

theorem State.askHold_granted {i : SlotNo} (below : s.pool.heldCount r < (s.ring r).active.holdQuota.toNat)
    (free : s.pool.freeSlot = some i) : s.askHold u x r w = s.grantHold u x r w i := by
  rw [State.askHold, if_pos below, free]

theorem State.askHold_busy
    (no_room : (s.ring r).active.holdQuota.toNat ≤ s.pool.heldCount r ∨ s.pool.freeSlot = none) :
    s.askHold u x r w = s.answer u .busy := by
  unfold State.askHold
  split
  · rename_i below
    rw [no_room.resolve_left (Nat.not_le.mpr below)]
  · rfl

end

/-- Settles O17: an answer is `State.answer_of_some`; a grant takes the lowest-numbered free slot, and a full pool has
none. -/
theorem holdIsGrantedWithinQuota : Obligations.HoldIsGrantedWithinQuota := by
  refine ⟨fun s u x a d txn => s.answer_of_some txn a d, fun s u x r w => ⟨?_, fun no_room => ?_⟩⟩
  · intro i free low below
    rw [s.askHold_granted u x w below (HoldPool.freeSlot_of_lowest free low)]
    rfl
  · exact s.askHold_busy u x w (no_room.imp_right HoldPool.freeSlot_of_full)

/-! ## Held requests that are answered -/

section
variable (s : State) (c : HoldEntry → Bool) (f : HoldEntry → Status)

theorem HoldPool.remove_released (p : HoldPool) (gone : List HoldEntry) :
    (p.remove gone).released = p.released.filter fun i => ¬ ∃ h ∈ gone, h.slot = i :=
  List.filter_congr fun i _ => by
    rw [Bool.eq_iff_iff]
    simp

/-- Held requests that are answered join the ready order in the order of their grants (R100, R103). -/
theorem State.answerHeld_readyOrder (placed : ∀ h ∈ s.pool.entries, s.txn h.transaction ≠ none) :
    (s.answerHeld c f).sys.readyOrder
      = s.sys.readyOrder ++ (s.pool.entries.filter c).map HoldEntry.transaction :=
  State.foldl_answer_readyOrder f _ s fun h hm => placed h (List.mem_filter.mp hm).1

theorem State.txn_answerHeld_of_mem (distinct : (s.pool.entries.map HoldEntry.transaction).Nodup) {h : HoldEntry}
    (gone : h ∈ s.pool.entries.filter c) {x : Txn} (txn : s.txn h.transaction = some x) :
    (s.answerHeld c f).txn h.transaction = some (x.answered (f h) []) := by
  rw [State.txn_answerHeld,
    State.txn_foldl_answer_of_mem f _ s gone (distinct.sublist (List.filter_sublist.map _)), txn]
  rfl

theorem State.txn_answerHeld_of_not_mem {u : TxnNo} (stays : ∀ h ∈ s.pool.entries.filter c, h.transaction ≠ u) :
    (s.answerHeld c f).txn u = s.txn u :=
  State.txn_foldl_answer_of_not_mem f u _ s stays

/-- Held requests that are answered change the pool and the system port alone. -/
theorem State.answerHeld_frame :
    s.answerHeld c f = { s with sys := (s.answerHeld c f).sys, pool := (s.answerHeld c f).pool } :=
  State.eq_of_fields (by simp) (by simp) (by simp) (by simp) (by simp) (by simp) rfl rfl (by simp) (by simp) (by simp)
    (by simp)

end

/-- Settles O18: a ring's hold list is the entries of the ring, and each is answered and leaves. -/
theorem holdListIsAnsweredOldestFirst : Obligations.HoldListIsAnsweredOldestFirst := by
  intro s r f _ distinct placed t gone
  have pool : t.pool = s.pool.remove gone := State.answerHeld_poolIs ..
  refine ⟨s.answerHeld_frame _ f, s.answerHoldList_entries r f, ?_, ?_, s.answerHeld_readyOrder _ f placed,
    fun h hg x txn => s.txn_answerHeld_of_mem _ f distinct hg txn,
    fun u stays => s.txn_answerHeld_of_not_mem _ f stays, s.answerHeld_undelivered _ f⟩
  · rw [pool, HoldPool.remove_released]
  · rw [pool]
    rfl

/-! ## Expiry -/

section
variable (s : State)

/-- A 16-bit count rises by one up to FFFFh (R67, R102). -/
theorem countUp_toNat (c : BitVec 16) : (countUp c).toNat = min 0xFFFF (c.toNat + 1) := by
  unfold countUp
  split
  · rename_i full
    subst full
    rfl
  · rename_i room
    bv_omega

/-- The late counters after a list of expiries (R102): each ring's counts its own, and nothing else of the ring
changes. -/
theorem State.ring_foldl_countLate (l : List HoldEntry) (r : RingNo) :
    ∃ c : BitVec 16, (l.foldl (fun s h => s.countLate h.ring) s).ring r = { s.ring r with lateCount := c }
      ∧ c.toNat = min 0xFFFF ((s.ring r).lateCount.toNat + l.countP fun h => h.ring = r) := by
  induction l generalizing s with
  | nil =>
    refine ⟨(s.ring r).lateCount, rfl, ?_⟩
    rw [List.countP_nil]
    omega
  | cons h l ih =>
    obtain ⟨c, ring, count⟩ := ih (s.countLate h.ring)
    have late : (s.countLate h.ring).ring r = if r = h.ring then
        { s.ring h.ring with lateCount := countUp (s.ring h.ring).lateCount } else s.ring r := State.ring_setRing ..
    rw [late] at ring count
    by_cases mine : h.ring = r
    · subst mine
      rw [if_pos rfl] at ring count
      refine ⟨c, ring, ?_⟩
      rw [count, countUp_toNat, List.countP_cons_of_pos (by simp)]
      omega
    · rw [if_neg (Ne.symm mine)] at ring count
      exact ⟨c, ring, by rw [count, List.countP_cons_of_neg (by simpa using mine)]⟩

/-- Entries that are WAITING take no place of the released list with them (R93, R100). -/
theorem HoldPool.WellFormed.remove_waiting {p : HoldPool} (form : p.WellFormed) {c : HoldEntry → Bool}
    (waiting : ∀ h, c h = true → h.state = .waiting) :
    p.remove (p.entries.filter c) = { p with entries := p.entries.filter fun h => !c h } := by
  have released : (p.remove (p.entries.filter c)).released = p.released := by
    rw [HoldPool.remove_released, List.filter_eq_self]
    refine fun i listed => decide_eq_true ?_
    rintro ⟨g, gone, slot⟩
    obtain ⟨mem, chosen⟩ := List.mem_filter.mp gone
    obtain ⟨h, hm, same, state⟩ := (form.listed i).mp listed
    rw [← form.eq_of_slot mem hm (slot.trans same.symm), waiting g chosen] at state
    cases state
  rw [← HoldPool.remove_entries, ← released]
  rfl

theorem State.expires_eq : s.expires = fun h => decide (h.state = .waiting ∧ h.deadline = s.time.count) :=
  funext fun _ => (Bool.decide_and ..).symm

/-- An expiry is the answers to the entries due, but for the rings (R100, R102). -/
theorem State.takeExpiries_frame : s.takeExpiries = { s with
    rings := s.takeExpiries.rings
    pool := (s.answerHeld s.expires fun _ => .late).pool
    sys := (s.answerHeld s.expires fun _ => .late).sys } :=
  State.eq_of_fields (by simp) (by simp) (by simp) (by simp) rfl (by simp)
    (foldl_unchanged (fun s (h : HoldEntry) => s.countLate h.ring) State.pool (fun s h => s.countLate_pool h.ring) _ _)
    (foldl_unchanged (fun s (h : HoldEntry) => s.countLate h.ring) State.sys (fun s h => s.countLate_sys h.ring) _ _)
    (by simp) (by simp) (by simp) (by simp)

theorem State.ring_takeExpiries (r : RingNo) :
    ∃ c : BitVec 16, s.takeExpiries.ring r = { s.ring r with lateCount := c }
      ∧ c.toNat = min 0xFFFF ((s.ring r).lateCount.toNat
        + (s.pool.entries.filter s.expires).countP fun h => h.ring = r) := by
  obtain ⟨c, ring, count⟩ := State.ring_foldl_countLate (s.answerHeld s.expires fun _ => .late)
    (s.pool.entries.filter s.expires) r
  rw [State.ring_answerHeld] at ring count
  exact ⟨c, ring, count⟩

end

/-- Settles O36: the entries due are answered LATE as any held entries are, and leave the released list as it is, since
they are WAITING; then the late counters count them. -/
theorem expiryAnswersLate : Obligations.ExpiryAnswersLate := by
  intro s h0 form distinct placed due gone
  have chosen : s.expires = due := s.expires_eq
  have rings := s.ring_takeExpiries
  obtain ⟨pool, sys⟩ : s.takeExpiries.pool = (s.answerHeld due fun _ => .late).pool
      ∧ s.takeExpiries.sys = (s.answerHeld due fun _ => .late).sys := by
    rw [s.takeExpiries_frame, chosen]
    exact ⟨rfl, rfl⟩
  rw [chosen] at rings
  refine ⟨s.takeExpiries, ?_, ?_, ?_, ?_, ?_, ?_, fun h hg x txn => ?_, fun u stays => ?_, rings⟩
  · simp only [exec, execExpiry, State.outOfReset_of h0]
  · rw [pool, sys, ← chosen]
    exact s.takeExpiries_frame
  · rw [pool, State.answerHeld_poolIs]
    exact form.remove_waiting fun h expiring => (of_decide_eq_true expiring).1
  · rw [sys]
    exact s.answerHeld_readyOrder _ _ placed
  · rw [sys, State.answerHeld_undelivered]
  · rw [sys, State.answerHeld_sysLink]
  · rw [State.txn_congr sys, s.txn_answerHeld_of_mem _ _ distinct hg txn]
    rfl
  · rw [State.txn_congr sys, s.txn_answerHeld_of_not_mem _ _ stays]

/-! ## A release scan -/

section
variable (s : State) (r : RingNo) (examines : HoldReason → Bool)

/-- The held request's condition for release holds, and the scan examines it (R97). -/
def State.isRipe (h : HoldEntry) : Bool :=
  h.ring = r && h.state = .waiting && examines h.reason && s.releasable h

theorem State.releasable_iff (h : HoldEntry) :
    s.releasable h = true ↔ ∃ x e, s.txn h.transaction = some x ∧ x.range = some e
      ∧ (h.reason = .underrun → ¬ (s.ring h.ring).BeyondFill e.stop)
      ∧ (h.reason = .room → ¬ (s.ring h.ring).BeyondRoom e.stop) := by
  unfold State.releasable
  cases txn : s.txn h.transaction with
  | none => simp
  | some x =>
    cases range : x.range with
    | none => simp [range]
    | some e => cases reason : h.reason <;> simp [range]

theorem State.isRipe_iff (h : HoldEntry) :
    s.isRipe r examines h = true ↔ h.ring = r ∧ h.state = .waiting ∧ examines h.reason = true
      ∧ ∃ x e, s.txn h.transaction = some x ∧ x.range = some e
        ∧ (h.reason = .underrun → ¬ (s.ring r).BeyondFill e.stop)
        ∧ (h.reason = .room → ¬ (s.ring r).BeyondRoom e.stop) := by
  simp only [State.isRipe, Bool.and_eq_true, decide_eq_true_eq, and_assoc, State.releasable_iff]
  refine and_congr_right fun mine => ?_
  rw [mine]

theorem State.releaseScan_eq : s.releaseScan r examines = { s with pool := { s.pool with
    entries := s.pool.entries.map fun h =>
      if h ∈ s.pool.entries.filter (s.isRipe r examines) then { h with state := .released } else h
    released := s.pool.released ++ (s.pool.entries.filter (s.isRipe r examines)).map HoldEntry.slot } } := by
  have entries : (s.pool.entries.map fun h => if s.isRipe r examines h then { h with state := .released } else h)
      = s.pool.entries.map fun h =>
        if h ∈ s.pool.entries.filter (s.isRipe r examines) then { h with state := .released } else h :=
    List.map_congr_left fun h hm => if_congr (by rw [List.mem_filter, and_iff_right hm]) rfl rfl
  rw [← entries]
  rfl

end

/-- Settles O51: the entries that a scan releases are the ripe ones, in the order of the pool. -/
theorem releaseScanReleasesRipeEntries : Obligations.ReleaseScanReleasesRipeEntries := by
  intro s r examines ring ripe
  have ripe_iff : ∀ h, s.isRipe r examines h = true ↔ ripe h := s.isRipe_iff r examines
  refine ⟨s.pool.entries.filter (s.isRipe r examines), List.filter_sublist, fun h => ?_, fun h hr => ?_,
    s.releaseScan_eq r examines⟩
  · rw [List.mem_filter, ripe_iff]
  · exact List.count_filter ((ripe_iff h).mpr hr)

/-! ## A re-admission -/

section
variable (s : State)

/-- The issue queue has two free entries (R98, R152). -/
theorem State.two_le_freeEntries_iff : 2 ≤ s.freeEntries ↔ s.mem.queue.length + 2 * s.awaiting.length + 2 ≤ 16 := by
  simp only [State.freeEntries, State.reserved, Config.issueQueueSize]
  omega

variable {p : HoldPool} {h : HoldEntry}

/-- The entry that a slot names, where each slot holds one entry (R91). -/
theorem HoldPool.WellFormed.find_slot (form : p.WellFormed) (mem : h ∈ p.entries) :
    p.entries.find? (fun g => g.slot = h.slot) = some h := by
  cases found : p.entries.find? (fun g => g.slot = h.slot) with
  | none => simpa using List.find?_eq_none.mp found h mem
  | some g =>
    have slot : g.slot = h.slot := of_decide_eq_true (List.find?_some found :)
    rw [form.eq_of_slot (List.mem_of_find?_eq_some found) mem slot]

/-- The head of the released list leaves the pool with its slot (R99). -/
theorem HoldPool.WellFormed.remove_head (form : p.WellFormed) (mem : h ∈ p.entries) {rest : List SlotNo}
    (released : p.released = h.slot :: rest) :
    p.remove [h] = { p with entries := p.entries.filter fun g => g.slot ≠ h.slot, released := rest } := by
  have fresh : h.slot ∉ rest := (List.nodup_cons.mp (released ▸ form.released)).1
  have entries : (p.remove [h]).entries = p.entries.filter fun g => g.slot ≠ h.slot :=
    List.filter_congr fun g hg => by
      have same : g = h ↔ g.slot = h.slot := ⟨congrArg _, form.eq_of_slot hg mem⟩
      simp [same]
  have others : (p.remove [h]).released = rest := by
    rw [HoldPool.remove_released, released, List.filter_cons_of_neg (by simp), List.filter_eq_self]
    intro i hi
    simpa using fun same : h.slot = i => fresh (same ▸ hi)
  rw [← entries, ← others]
  rfl

theorem State.readmitHead_of (form : s.pool.WellFormed) (room : 2 ≤ s.freeEntries) (mem : h ∈ s.pool.entries)
    {rest : List SlotNo} (released : s.pool.released = h.slot :: rest) :
    s.readmitHead = State.admitHeld { s with pool := { s.pool with
      entries := s.pool.entries.filter fun g => g.slot ≠ h.slot
      released := rest } } h := by
  rw [← form.remove_head mem released]
  simp only [State.readmitHead, if_pos room, released, form.find_slot mem]

theorem State.readmitHead_idle (idle : s.pool.released = [] ∨ ¬ 2 ≤ s.freeEntries) : s.readmitHead = s := by
  unfold State.readmitHead
  split
  · rename_i room
    rw [idle.resolve_right (not_not.mpr room)]
  · rfl

variable {x : Txn} {e : Extent} (txn : s.txn h.transaction = some x) (range : x.range = some e)
include txn range

/-- A held write is admitted with the data of its slot's store (R99). -/
theorem State.admitHeld_write (write : x.direction = .write) : s.admitHeld h
    = s.takeWrite h.transaction { x with data := s.pool.stores[h.slot.val].take x.length } h.ring e := by
  simp only [State.admitHeld, txn, range, write]

theorem State.admitHeld_read (read : x.direction = .read) :
    s.admitHeld h = s.takeRead h.transaction x h.ring e := by
  simp only [State.admitHeld, txn, range, read]

end

/-- Settles O26: the head of the released list names one entry, which leaves the pool with its slot and is then admitted
(`State.readmitHead_of`). -/
theorem reAdmissionTakesReleasedHead : Obligations.ReAdmissionTakesReleasedHead := by
  refine ⟨?_, fun s idle => ?_⟩
  · intro s i rest h x e h0 room released form mem slot txn range s'
    subst slot
    have readmitted : exec .reAdmission s = .next (s'.admitHeld h) := by
      simp only [exec, execReAdmission, State.outOfReset_of h0]
      rw [s.readmitHead_of form (s.two_le_freeEntries_iff.mpr room) mem released]
    rw [readmitted]
    cases direction : x.direction with
    | write => rw [s'.admitHeld_write txn range direction, direction]
    | read => rw [s'.admitHeld_read txn range direction]
  · have stays : s.readmitHead = s :=
      s.readmitHead_idle (idle.imp_right fun full => by rw [State.two_le_freeEntries_iff]; omega)
    simp only [exec, execReAdmission, State.outOfReset, stays, ite_self]

end Sys2Proof.Machine
end

section
/-! The event queue, the event lines and the register pointer: an offer (O50), a pop (O46), and what every event keeps
of the queue's numbering, the lines and the pointer (O55); with it, every invariant right after a hardware reset
(O54). -/

namespace Sys2Proof.Machine

/-! ## Records -/

section
variable {q q' : EventQueue}

/-- Lost records and cleared flags leave the numbering as it is. -/
theorem EventQueue.WellFormed.of_records (h : q.WellFormed) (records : q'.records = q.records)
    (next : q'.nextSequence = q.nextSequence) : q'.WellFormed := by
  obtain ⟨held, nextSequence, lost, marker, lines⟩ := q'
  subst records next
  exact ⟨h.bounded, h.consecutive⟩

/-- An empty queue is numbered whatever its counter (R134). -/
theorem EventQueue.WellFormed.of_nil (empty : q.records = []) : q.WellFormed := by
  obtain ⟨held, nextSequence, lost, marker, lines⟩ := q
  cases empty
  exact ⟨Nat.zero_le _, nofun⟩

/-- A record numbered by the counter joins the tail, and the counter moves on by one (R126). -/
theorem EventQueue.WellFormed.push (h : q.WellFormed) (room : q.records.length < Config.eventQueueSize)
    {e : EventRecord} (numbered : e.sequence = q.nextSequence) (marker : Bool) : EventQueue.WellFormed
      { q with records := q.records ++ [e], nextSequence := q.nextSequence + 1, markerPending := marker } := by
  refine ⟨by simpa using room, fun i inside => ?_⟩
  dsimp only at inside ⊢
  rw [List.length_append, List.length_singleton] at inside ⊢
  by_cases older : i < q.records.length
  · have later : q.records.length + 1 - i = q.records.length - i + 1 := by omega
    rw [List.getElem_append_left older, later, BitVec.ofNat_add, ← BitVec.add_assoc, h.consecutive i older]
    rfl
  · obtain rfl : i = q.records.length := by omega
    simp [numbered]

/-- The head leaves, and the numbers behind it still end at the counter (R126, R132). -/
theorem EventQueue.WellFormed.pop (h : q.WellFormed) {e : EventRecord} {rest : List EventRecord}
    (held : q.records = e :: rest) : EventQueue.WellFormed { q with records := rest } := by
  obtain ⟨_, _, _, _, _⟩ := q
  cases held
  refine ⟨Nat.le_of_succ_le h.bounded, fun i inside => ?_⟩
  simpa using h.consecutive (i + 1) (Nat.succ_lt_succ inside)

end

/-! ## An offer -/

section
variable (s : State) (k : EventKind) (o : Option RingNo) (line : BitVec 2) (p : Option Nat) (c : EventCount)

/-- An offer to a queue with room: the record joins the tail and the lines are re-evaluated (R127, R130). -/
theorem State.offer_of_room (room : s.events.records.length < Config.eventQueueSize) :
    s.offer k o line p c = State.refreshLines { s with events := { s.events with
      records := s.events.records ++ [{ sequence := s.events.nextSequence, kind := k, ring := o, line := line
                                        afterLoss := s.events.markerPending, position := p, count := c }]
      nextSequence := s.events.nextSequence + 1
      markerPending := false } } := if_pos room

/-- An offer to a full queue: the record is lost (R127, R128). -/
theorem State.offer_of_full (full : Config.eventQueueSize ≤ s.events.records.length) :
    s.offer k o line p c = { s with events := { s.events with lost := true, markerPending := true } } :=
  if_neg (Nat.not_lt.mpr full)

end

/-! ## The level monitor -/

section
variable {s : State} {r : RingNo}

/-- The row of LOW_SIDE: the level has reached the high mark (R122). -/
theorem State.evaluateLevel_filled (low : (s.ring r).side = .low)
    (reached : (s.ring r).active.highMark.toNat ≤ (s.ring r).level) : s.evaluateLevel r
      = (s.setRing r { s.ring r with side := .high }).raise r .filled (some (s.ring r).F) .absent := by
  simp only [State.evaluateLevel, low, if_pos reached]

/-- The row of HIGH_SIDE: the level has fallen to the low mark (R122). -/
theorem State.evaluateLevel_drained (high : (s.ring r).side = .high)
    (fallen : (s.ring r).level ≤ (s.ring r).active.lowMark.toNat) : s.evaluateLevel r
      = (s.setRing r { s.ring r with side := .low }).raise r .drained (some (s.ring r).D) .absent := by
  simp only [State.evaluateLevel, high, if_pos fallen]

/-- With the side in agreement with the level, neither row's comparison holds (R122). -/
theorem State.evaluateLevel_of_agrees (agrees : (s.ring r).SideAgrees) : s.evaluateLevel r = s := by
  unfold Ring.SideAgrees at agrees
  unfold State.evaluateLevel
  dsimp only
  split <;> rename_i side <;> rw [side] at agrees
  · exact if_neg (Nat.not_le.mpr agrees)
  · exact if_neg (Nat.not_le.mpr agrees)

end

/-- Settles O50: the two cases of an offer, the mask's test of a ring's event, and the rows of the level monitor, after
which the side agrees (`Ring.evaluatedSide_agrees`). -/
theorem recordsAreStoredOrLost : Obligations.RecordsAreStoredOrLost := by
  refine ⟨fun s k ring line p c => ⟨fun room => ?_, s.offer_of_full k ring line p c⟩, fun s r k p c => rfl,
    fun s r => ⟨State.evaluateLevel_filled, State.evaluateLevel_drained, State.evaluateLevel_of_agrees,
      fun marks => ?_⟩⟩
  · refine ⟨_, s.offer_of_room k ring line p c room, fun n hn => ?_⟩
    rw [lineLevels_bit _ _ hn]
    simp [or_comm]
  · rw [State.ring_evaluateLevel_self]
    exact Ring.evaluatedSide_agrees marks

/-! ## A pop -/

section
variable {s : State} {v : Word}

/-- A pop that finds the queue empty (R132). -/
theorem State.popEvent_of_nil (empty : s.events.records = []) : s.popEvent v = s.setPopMismatchFlag := by
  simp only [State.popEvent, empty]

/-- A pop of a queue with a head, by whether it names the head (R132). -/
theorem State.popEvent_of_cons {head : EventRecord} {rest : List EventRecord}
    (held : s.events.records = head :: rest) : s.popEvent v = if head.sequence = v.extractLsb' 0 8 then
      State.refreshLines { s with events := { s.events with records := rest } } else s.setPopMismatchFlag := by
  simp only [State.popEvent, held]

end

/-- Settles O46: EVENT_POP is the complete write of its register, and the pop goes by the head. -/
theorem eventPopTakesTheNamedHead : Obligations.EventPopTakesTheNamedHead := by
  intro s v h0 mismatch
  have popped : exec (.eventPop v) s = .next ((s.popEvent v).acknowledge 0x02C) :=
    congrArg _ (State.writeAt_of_running s .eventPop v h0)
  refine ⟨fun empty => ?_, fun head rest held => ⟨fun other => ?_, fun named => ?_⟩⟩
  · exact popped.trans (by rw [State.popEvent_of_nil empty]; rfl)
  · exact popped.trans (by rw [State.popEvent_of_cons held, if_neg (Ne.symm other)]; rfl)
  · refine ⟨lineLevels rest s.mgmt.lineEnables, fun n hn => lineLevels_bit _ _ hn, ?_⟩
    rw [popped, State.popEvent_of_cons held, if_pos named.symm]
    rfl

/-! ## Register addresses -/

/-- An address is aligned when it is a multiple of 4 (R163). -/
theorem alignPointer_eq_self_iff (a : BitVec 16) : alignPointer a = a ↔ a.toNat % 4 = 0 := by
  have value : (alignPointer a).toNat = a.toNat / 4 * 4 := by
    have := a.isLt
    simp only [alignPointer, BitVec.toNat_append, BitVec.extractLsb'_toNat, Nat.shiftRight_eq_div_pow]
    simp [Nat.shiftLeft_eq]
    omega
  rw [← BitVec.toNat_inj, value]
  omega

theorem alignPointer_alignPointer (a : BitVec 16) : alignPointer (alignPointer a) = alignPointer a := by
  simp only [alignPointer_eq_mask, BitVec.and_assoc, BitVec.and_self]

/-- The pointer moves on by 4 (R164). -/
theorem alignPointer_add_four {a : BitVec 16} (aligned : alignPointer a = a) : alignPointer (a + 4) = a + 4 := by
  rw [alignPointer_eq_self_iff] at aligned ⊢
  have four : (4 : BitVec 16).toNat = 4 := rfl
  rw [BitVec.toNat_add, four]
  omega

theorem controlAddress_aligned (r : RingNo) {offset : Nat} (h : offset % 4 = 0) :
    alignPointer (controlAddress r offset) = controlAddress r offset := by
  rw [alignPointer_eq_self_iff, controlAddress, BitVec.toNat_ofNat]
  omega

theorem statusAddress_aligned (r : RingNo) {offset : Nat} (h : offset % 4 = 0) :
    alignPointer (statusAddress r offset) = statusAddress r offset := by
  rw [alignPointer_eq_self_iff, statusAddress, BitVec.toNat_ofNat]
  omega

/-- Every register stands at an aligned address (10.7). -/
theorem Reg.address_aligned (reg : Reg) : alignPointer reg.address = reg.address := by
  cases reg with
  | structural r g => exact controlAddress_aligned r (by cases g <;> rfl)
  | live r g => exact controlAddress_aligned r (by cases g <;> rfl)
  | command r => exact controlAddress_aligned r rfl
  | fillCounter r c => exact controlAddress_aligned r (by cases c <;> rfl)
  | lateCounter r => exact controlAddress_aligned r rfl
  | status r g =>
    refine statusAddress_aligned r ?_
    cases g with
    | poisonStart i | poisonLength i => simp only [StatusReg.offset]; omega
    | _ => rfl
  | _ => decide

/-! ## What an event keeps -/

/-- The event queue numbered, the lines as their rule gives them and the pointer aligned (R126, R130, R163). -/
structure State.EventsFit (s : State) : Prop where
  lines : s.LinesAgree
  queue : s.events.WellFormed
  pointer : s.PointerAligned

/-- The same of a part that is not held in reset, where a re-evaluation of the lines gives what their rule says. -/
structure State.EventsFitAwake (s : State) : Prop where
  fit : s.EventsFit
  awake : s.inReset = false

section
variable {s s' : State}

/-- A change that leaves the event queue, the management port and RST_N alone. -/
theorem State.EventsFit.of_fields (h : s.EventsFit) (events : s'.events = s.events := by simp)
    (mgmt : s'.mgmt = s.mgmt := by simp) (inReset : s'.inReset = s.inReset := by simp) : s'.EventsFit where
  lines := by
    unfold State.LinesAgree
    rw [events, mgmt, inReset]
    exact h.lines
  queue := events ▸ h.queue
  pointer := by
    unfold State.PointerAligned
    rw [mgmt]
    exact h.pointer

theorem State.EventsFitAwake.of_fields (h : s.EventsFitAwake) (events : s'.events = s.events := by simp)
    (mgmt : s'.mgmt = s.mgmt := by simp) (inReset : s'.inReset = s.inReset := by simp) : s'.EventsFitAwake :=
  ⟨h.fit.of_fields events mgmt inReset, inReset.trans h.awake⟩

/-- Another aligned pointer, and settings that the lines do not depend on (R163, R167, R170). -/
theorem State.EventsFit.setMgmt (h : s.EventsFit) {m : Management} (enables : m.lineEnables = s.mgmt.lineEnables)
    (aligned : alignPointer m.pointer = m.pointer) : State.EventsFit { s with mgmt := m } where
  lines := by
    unfold State.LinesAgree
    rw [enables]
    exact h.lines
  queue := h.queue
  pointer := aligned

theorem State.EventsFitAwake.setMgmt (h : s.EventsFitAwake) {m : Management}
    (enables : m.lineEnables = s.mgmt.lineEnables) (aligned : alignPointer m.pointer = m.pointer) :
    State.EventsFitAwake { s with mgmt := m } :=
  ⟨h.fit.setMgmt enables aligned, h.awake⟩

theorem State.EventsFitAwake.setFlags (h : s.EventsFitAwake) (f : ErrorFlags) : (s.setFlags f).EventsFitAwake :=
  h.setMgmt rfl h.fit.pointer

/-- A change of the queue or of the line enables that re-evaluates the lines (R130). -/
theorem State.EventsFitAwake.refreshLines (awake : s.inReset = false) (queue : s.events.WellFormed)
    (pointer : s.PointerAligned) : s.refreshLines.EventsFitAwake where
  fit := {
    lines := by rw [State.LinesAgree, State.refreshLines_inReset, awake]; rfl
    queue := queue.of_records rfl rfl
    pointer := pointer }
  awake := awake

/-- A change of the queue's two flags (R128). -/
theorem State.EventsFitAwake.setLoss (h : s.EventsFitAwake) (lost marker : Bool) :
    State.EventsFitAwake { s with events := { s.events with lost := lost, markerPending := marker } } :=
  ⟨⟨h.fit.lines, h.fit.queue.of_records rfl rfl, h.fit.pointer⟩, h.awake⟩

/-! ## The event queue -/

/-- An offer is stored under the next number or lost (R127). -/
theorem State.EventsFitAwake.offer (h : s.EventsFitAwake) (k : EventKind) (o : Option RingNo) (line : BitVec 2)
    (p : Option Nat) (c : EventCount) : (s.offer k o line p c).EventsFitAwake := by
  rcases Nat.lt_or_ge s.events.records.length Config.eventQueueSize with room | full
  · rw [State.offer_of_room s k o line p c room]
    exact State.EventsFitAwake.refreshLines h.awake (h.fit.queue.push room rfl false) h.fit.pointer
  · rw [State.offer_of_full s k o line p c full]
    exact h.setLoss true true

/-- A pop takes the head or sets a flag (R132). -/
theorem State.EventsFitAwake.popEvent (h : s.EventsFitAwake) (v : Word) : (s.popEvent v).EventsFitAwake := by
  cases held : s.events.records with
  | nil => exact State.popEvent_of_nil held ▸ h.setFlags _
  | cons head rest =>
    rw [State.popEvent_of_cons held]
    split
    · exact State.EventsFitAwake.refreshLines h.awake (h.fit.queue.pop held) h.fit.pointer
    · exact h.setFlags _

theorem State.EventsFitAwake.emptyEvents (h : s.EventsFitAwake) : s.emptyEvents.EventsFitAwake :=
  State.EventsFitAwake.refreshLines h.awake (EventQueue.WellFormed.of_nil rfl) h.fit.pointer

theorem State.EventsFitAwake.raise (h : s.EventsFitAwake) (r : RingNo) (k : EventKind) (p : Option Nat)
    (c : EventCount) : (s.raise r k p c).EventsFitAwake :=
  iteInduction (motive := State.EventsFitAwake) (fun _ => h.offer _ _ _ _ _) fun _ => h

/-! ## The ring engine -/

theorem State.EventsFitAwake.setRing (h : s.EventsFitAwake) (r : RingNo) (y : Ring) : (s.setRing r y).EventsFitAwake :=
  h.of_fields

theorem State.EventsFitAwake.releaseScan (h : s.EventsFitAwake) (r : RingNo) (examines : HoldReason → Bool) :
    (s.releaseScan r examines).EventsFitAwake := h.of_fields

theorem State.EventsFitAwake.evaluateLevel (h : s.EventsFitAwake) (r : RingNo) :
    (s.evaluateLevel r).EventsFitAwake := by
  unfold State.evaluateLevel
  dsimp only
  split
  · split
    · exact (h.setRing r _).raise _ _ _ _
    · exact h
  · split
    · exact (h.setRing r _).raise _ _ _ _
    · exact h

theorem State.EventsFitAwake.testDrainEnd (h : s.EventsFitAwake) (r : RingNo) : (s.testDrainEnd r).EventsFitAwake :=
  iteInduction (motive := State.EventsFitAwake) (fun _ => (h.setRing r _).raise _ _ _ _) fun _ => h

theorem State.EventsFitAwake.testClearEnd (h : s.EventsFitAwake) (r : RingNo) : (s.testClearEnd r).EventsFitAwake := by
  have cleared : ((s.setRing r (s.ring r).endClear).markCleared r).EventsFitAwake := h.of_fields
  exact iteInduction (motive := State.EventsFitAwake) (fun _ => cleared.raise _ _ _ _) fun _ => h

theorem State.EventsFitAwake.testResetCompletion (h : s.EventsFitAwake) : s.testResetCompletion.EventsFitAwake := by
  unfold State.testResetCompletion
  split
  · exact State.EventsFitAwake.emptyEvents h.of_fields
  · exact h

theorem State.EventsFitAwake.beginClear (h : s.EventsFitAwake) (r : RingNo) : (s.beginClear r).EventsFitAwake :=
  State.EventsFitAwake.testClearEnd h.of_fields r

theorem State.EventsFitAwake.enterHalted (h : s.EventsFitAwake) (r : RingNo) : (s.enterHalted r).EventsFitAwake :=
  State.EventsFitAwake.raise h.of_fields _ _ _ _

theorem State.EventsFitAwake.finishWriteEnd (h : s.EventsFitAwake) (r : RingNo) (f0 : Nat) :
    (s.finishWriteEnd r f0).EventsFitAwake := by
  unfold State.finishWriteEnd
  extract_lets x moved boundary applied s1 s2 s3 s4
  have h1 : s1.EventsFitAwake := iteInduction (motive := State.EventsFitAwake) (fun _ => h.setRing r _) fun _ => h
  have h2 : s2.EventsFitAwake :=
    iteInduction (motive := State.EventsFitAwake) (fun _ => h1.evaluateLevel r) fun _ => h1
  have h3 : s3.EventsFitAwake := iteInduction (motive := State.EventsFitAwake) (fun _ => h2.releaseScan r _) fun _ => h2
  have h4 : s4.EventsFitAwake :=
    iteInduction (motive := State.EventsFitAwake) (fun _ => h3.raise _ _ _ _) fun _ => h3
  exact h4.testDrainEnd r

theorem State.EventsFitAwake.absorbWrites (h : s.EventsFitAwake) (r : RingNo) : (s.absorbWrites r).EventsFitAwake := by
  rw [State.absorbWrites_eq]
  refine State.EventsFitAwake.finishWriteEnd ?_ r _
  unfold State.settleWrites
  extract_lets x a poisoned
  have h1 : poisoned.EventsFitAwake :=
    foldl_keeps _ State.EventsFitAwake _ (fun _ e _ hs => hs.raise r _ _ _) _ (h.setRing r _)
  exact iteInduction (motive := State.EventsFitAwake) (fun _ => h1.enterHalted r) fun _ => h1

theorem State.EventsFitAwake.absorbReads (h : s.EventsFitAwake) (r : RingNo) : (s.absorbReads r).EventsFitAwake := by
  unfold State.absorbReads
  extract_lets x a s1 s2
  have h1 : s1.EventsFitAwake := h.setRing r _
  have h2 : s2.EventsFitAwake := h1.evaluateLevel r
  split
  · exact h1
  split
  · exact h2.releaseScan r _
  · exact h2

theorem State.EventsFitAwake.endWrite (h : s.EventsFitAwake) (r : RingNo) (u : TxnNo) (ok : Bool) :
    (s.endWrite r u ok).EventsFitAwake :=
  iteInduction (motive := State.EventsFitAwake)
    (fun _ => State.EventsFitAwake.absorbWrites h.of_fields r) fun _ => h.of_fields

theorem State.EventsFitAwake.endRead (h : s.EventsFitAwake) (r : RingNo) (u : TxnNo) (ok : Bool) (data : List Byte) :
    (s.endRead r u ok data).EventsFitAwake := by
  unfold State.endRead
  dsimp only
  split
  · split
    · split
      · exact State.EventsFitAwake.absorbReads h.of_fields r
      · exact h.of_fields
    · exact h.of_fields
  · exact h.of_fields

/-! ## Admissions -/

theorem State.EventsFitAwake.overtake (h : s.EventsFitAwake) (r : RingNo) (e : Nat) :
    (s.overtake r e).EventsFitAwake := by
  rw [State.overtake_eq]
  have overtaken : (s.overtaken r e).EventsFitAwake :=
    h.of_fields (by simp [State.overtaken]) (by simp [State.overtaken]) (by simp [State.overtaken])
  exact ((overtaken.raise _ _ _ _).evaluateLevel r).releaseScan r _

theorem State.EventsFitAwake.admitWrite (h : s.EventsFitAwake) (u : TxnNo) (x : Txn) (r : RingNo) (e : Extent) :
    (s.admitWrite u x r e).EventsFitAwake := by
  have placed : (s.setRing r ((s.ring r).placeWrite u e)).EventsFitAwake := h.setRing r _
  unfold State.admitWrite
  dsimp only
  split
  · exact (placed.overtake r e.stop).of_fields
  · exact placed.of_fields

theorem State.EventsFitAwake.takeWrite (h : s.EventsFitAwake) (u : TxnNo) (x : Txn) (r : RingNo) (e : Extent) :
    (s.takeWrite u x r e).EventsFitAwake := by
  unfold State.takeWrite
  split
  · exact h.of_fields
  split
  · exact h.of_fields
  · exact h.of_fields
  · exact h.of_fields
  · exact h.of_fields
  · exact h.admitWrite _ _ _ _

theorem State.EventsFitAwake.poisonedRead (h : s.EventsFitAwake) (u : TxnNo) (r : RingNo) (part : Option Extent) :
    (s.poisonedRead u r part).EventsFitAwake := by
  cases part with
  | none => exact State.EventsFitAwake.of_fields (s' := s.answer u .poisoned) h
  | some c =>
    rw [State.poisonedRead_some]
    exact State.EventsFitAwake.absorbReads h.of_fields r

theorem State.EventsFitAwake.readOutcome (h : s.EventsFitAwake) (u : TxnNo) (x : Txn) (r : RingNo)
    (part : Option Extent) (outcome : ReadOutcome) : (s.readOutcome u x r part outcome).EventsFitAwake := by
  unfold State.readOutcome
  split
  · exact h.of_fields
  · exact h.of_fields
  · exact h.poisonedRead _ _ _
  · exact h.of_fields

theorem State.EventsFitAwake.takeRead (h : s.EventsFitAwake) (u : TxnNo) (x : Txn) (r : RingNo) (e : Extent) :
    (s.takeRead u x r e).EventsFitAwake := by
  rw [State.takeRead_eq]
  split
  · exact h.of_fields
  · exact State.EventsFitAwake.readOutcome h.of_fields _ _ _ _ _

theorem State.EventsFitAwake.takeOldestAdmission (h : s.EventsFitAwake) (direction : Direction)
    {take : State → TxnNo → Txn → RingNo → Extent → State}
    (keeps : ∀ {s : State} (u : TxnNo) (x : Txn) (r : RingNo) (e : Extent), s.EventsFitAwake →
      (take s u x r e).EventsFitAwake) : (s.takeOldestAdmission direction take).EventsFitAwake := by
  unfold State.takeOldestAdmission
  split
  · exact h
  split
  · exact h
  split
  · split
    · exact keeps _ _ _ _ h.of_fields
    · exact h
  · exact h

theorem State.EventsFitAwake.admitHeld (h : s.EventsFitAwake) (g : HoldEntry) : (s.admitHeld g).EventsFitAwake := by
  unfold State.admitHeld
  split
  · exact h
  split
  · exact h
  split
  · exact h.takeWrite _ _ _ _
  · exact h.takeRead _ _ _ _

theorem State.EventsFitAwake.readmitHead (h : s.EventsFitAwake) : s.readmitHead.EventsFitAwake := by
  unfold State.readmitHead
  split
  · split
    · exact h
    split
    · exact h
    · exact State.EventsFitAwake.admitHeld h.of_fields _
  · exact h

/-! ## The ports and the timebase -/

theorem State.EventsFitAwake.considerHead (h : s.EventsFitAwake) : s.considerHead.EventsFitAwake := by
  unfold State.considerHead
  split
  · exact h
  split
  · exact State.EventsFitAwake.testResetCompletion h.of_fields
  split
  · exact h
  split
  · exact h
  · exact h.of_fields

/-- PASS_FAULT is the one record that no ring offers (R119). -/
theorem State.EventsFitAwake.endPassThrough (h : s.EventsFitAwake) (u : TxnNo) (x : Txn) :
    (s.endPassThrough u x).EventsFitAwake := by
  have answered (a : Status) (d : List Byte) : (s.answer u a d).EventsFitAwake := h.of_fields
  unfold State.endPassThrough
  dsimp only
  split
  · exact answered _ _
  split
  · exact (answered _ _).offer _ _ _ _ _
  · exact answered _ _

theorem State.EventsFitAwake.endRingRequest (h : s.EventsFitAwake) (r : RingNo) (u : TxnNo) (x : Txn) :
    (s.endRingRequest r u x).EventsFitAwake := by
  unfold State.endRingRequest
  split
  · exact h.endWrite _ _ _
  · exact h.endRead _ _ _ _

theorem State.EventsFitAwake.reportEnd (h : s.EventsFitAwake) (u : TxnNo) (p : PartNo) (e : OpEnd) :
    (s.reportEnd u p e).EventsFitAwake := by
  cases txn : s.txn u with
  | none =>
    simp only [State.reportEnd, txn]
    exact h.testResetCompletion
  | some x =>
    have recorded : (s.setTxn u (some (x.endPart p e))).EventsFitAwake := h.of_fields
    cases ring : x.ring with
    | none =>
      rw [State.reportEnd_passThrough s txn ring]
      exact State.EventsFitAwake.testResetCompletion
        (iteInduction (motive := State.EventsFitAwake) (fun _ => recorded.endPassThrough _ _) fun _ => recorded)
    | some r =>
      rw [State.reportEnd_ring s txn ring]
      refine State.EventsFitAwake.testResetCompletion (State.EventsFitAwake.testClearEnd ?_ r)
      exact iteInduction (motive := State.EventsFitAwake) (fun _ => recorded.endRingRequest _ _ _) fun _ => recorded

theorem State.EventsFitAwake.takeResponse (h : s.EventsFitAwake) (id : BitVec 6) (status : MemoryStatus)
    (data : List Byte) : (s.takeResponse id status data).EventsFitAwake := by
  unfold State.takeResponse
  split
  · exact h
  split
  · exact h.of_fields
  split <;> exact State.EventsFitAwake.reportEnd h.of_fields _ _ _

theorem State.EventsFitAwake.takeTimeouts (h : s.EventsFitAwake) : s.takeTimeouts.EventsFitAwake :=
  foldl_keeps _ State.EventsFitAwake _ (fun s o _ hs =>
    State.EventsFitAwake.reportEnd (s := s.orphan o.id) hs.of_fields o.transaction o.part .failed) _ h

theorem State.EventsFitAwake.deliverHead (h : s.EventsFitAwake) : s.deliverHead.EventsFitAwake := by
  unfold State.deliverHead
  split
  · exact h
  split
  · exact h
  · exact State.EventsFitAwake.testResetCompletion h.of_fields

theorem State.EventsFitAwake.takeExpiries (h : s.EventsFitAwake) : s.takeExpiries.EventsFitAwake := h.of_fields

theorem State.EventsFitAwake.settleAdvance (h : s.EventsFitAwake) : s.settleAdvance.EventsFitAwake := by
  have counted : State.EventsFitAwake { s with freeCount := s.freeCount + 1 } := h.of_fields
  unfold State.settleAdvance
  dsimp only
  split
  · split
    · exact counted.takeExpiries.takeTimeouts
    · exact counted.takeTimeouts.takeExpiries
  · exact h.takeExpiries.takeTimeouts

theorem State.EventsFitAwake.refclkCycle (h : s.EventsFitAwake) : s.refclkCycle.EventsFitAwake :=
  iteInduction (motive := State.EventsFitAwake) (fun _ => h.settleAdvance.of_fields) fun _ => h.of_fields

theorem State.EventsFitAwake.refclkCycles (n : Nat) (h : s.EventsFitAwake) : (s.refclkCycles n).EventsFitAwake := by
  induction n generalizing s with
  | zero => exact h
  | succ n ih => exact ih h.refclkCycle

/-! ## Commands and descriptor writes -/

theorem State.EventsFitAwake.setOutcome (h : s.EventsFitAwake) (r : RingNo) (o : CommandOutcome) :
    (s.setOutcome r o).EventsFitAwake := h.setRing r _

theorem State.EventsFitAwake.takePause (h : s.EventsFitAwake) (r : RingNo) : (s.takePause r).EventsFitAwake :=
  iteInduction (motive := State.EventsFitAwake)
    (fun _ => State.EventsFitAwake.testDrainEnd h.of_fields r) fun _ => h.setOutcome r _

theorem State.EventsFitAwake.takeHalt (h : s.EventsFitAwake) (r : RingNo) : (s.takeHalt r).EventsFitAwake := by
  unfold State.takeHalt
  cases (s.ring r).state with
  | active | draining | paused => exact (h.setOutcome r _).enterHalted r
  | off | halted | clearing => exact h.setOutcome r _

theorem State.EventsFitAwake.takeClear (h : s.EventsFitAwake) (r : RingNo) : (s.takeClear r).EventsFitAwake := by
  unfold State.takeClear
  cases (s.ring r).state with
  | active | draining | paused | halted => exact h.beginClear r
  | off | clearing => exact h.setOutcome r _

theorem State.EventsFitAwake.applyOnCommand (h : s.EventsFitAwake) (r : RingNo) :
    (s.applyOnCommand r).EventsFitAwake := by
  unfold State.applyOnCommand
  extract_lets x s1 s2 s3
  have h1 : s1.EventsFitAwake := h.setRing r _
  have h2 : s2.EventsFitAwake := h1.evaluateLevel r
  have h3 : s3.EventsFitAwake := iteInduction (motive := State.EventsFitAwake) (fun _ => h2.releaseScan r _) fun _ => h2
  exact h3.raise _ _ _ _

theorem State.EventsFitAwake.takeApplyNow (h : s.EventsFitAwake) (r : RingNo) : (s.takeApplyNow r).EventsFitAwake := by
  unfold State.takeApplyNow
  dsimp only
  split
  · exact h.setOutcome r _
  split
  · exact h.setOutcome r _
  split
  · exact h.applyOnCommand r
  · exact h.setOutcome r _

theorem State.EventsFitAwake.takeCommand (h : s.EventsFitAwake) (r : RingNo) (code : BitVec 4) :
    (s.takeCommand r code).EventsFitAwake := by
  unfold State.takeCommand
  split
  · exact h.of_fields
  · exact h.takePause r
  · exact h.of_fields
  · exact h.takeHalt r
  · exact h.takeClear r
  · exact h.takeApplyNow r
  · exact h.of_fields
  · exact h.setOutcome r _

theorem State.EventsFitAwake.writeStructural (h : s.EventsFitAwake) (r : RingNo) (g : StructuralReg) (v : Word) :
    (s.writeStructural r g v).EventsFitAwake :=
  iteInduction (motive := State.EventsFitAwake) (fun _ => h.setRing r _) fun _ => h.setFlags _

theorem State.EventsFitAwake.applyImmediately (h : s.EventsFitAwake) (r : RingNo) :
    (s.applyImmediately r).EventsFitAwake :=
  iteInduction (motive := State.EventsFitAwake) (fun _ => (h.setRing r _).evaluateLevel r) fun _ => h.setRing r _

theorem State.EventsFitAwake.writeLive (h : s.EventsFitAwake) (r : RingNo) (g : LiveReg) (v : Word) :
    (s.writeLive r g v).EventsFitAwake := by
  unfold State.writeLive
  dsimp only
  split
  · exact h.setRing r _
  · exact (h.setRing r _).applyImmediately r
  · exact (h.setRing r _).applyImmediately r
  all_goals exact h.setRing r _

theorem State.EventsFitAwake.whileRunning (h : s.EventsFitAwake) {f : State → State}
    (keeps : (f s).EventsFitAwake) : (s.whileRunning f).EventsFitAwake :=
  iteInduction (motive := State.EventsFitAwake) (fun _ => keeps) fun _ => h.setFlags _

/-! ## The part reset and the register writes -/

theorem State.EventsFitAwake.clearForReset (h : s.EventsFitAwake) (r : RingNo) :
    (s.clearForReset r).EventsFitAwake := by
  unfold State.clearForReset
  cases (s.ring r).state with
  | active | draining | paused | halted => exact h.beginClear r
  | off | clearing => exact h

theorem State.EventsFitAwake.takeResetPart (h : s.EventsFitAwake) : s.takeResetPart.EventsFitAwake := by
  unfold State.takeResetPart
  split
  · exact h
  · exact State.EventsFitAwake.testResetCompletion
      (foldl_keeps _ State.EventsFitAwake _ (fun _ r _ hs => hs.clearForReset r) _ h.of_fields)

theorem State.EventsFitAwake.writeControl (h : s.EventsFitAwake) (v : Word) : (s.writeControl v).EventsFitAwake := by
  unfold State.writeControl
  extract_lets cleared
  have h1 : cleared.EventsFitAwake :=
    iteInduction (motive := State.EventsFitAwake) (fun _ => h.setLoss false _) fun _ => h
  exact iteInduction (motive := State.EventsFitAwake) (fun _ => h1.takeResetPart) fun _ => h1

/-- A complete register write changes the lines' enables only with the lines (R130, R166). -/
theorem State.EventsFitAwake.writeReg (h : s.EventsFitAwake) (reg : Reg) (v : Word) :
    (s.writeReg reg v).EventsFitAwake := by
  unfold State.writeReg
  cases reg with
  | unmapped | identification | tickCount | occupancy | eventHead0 | eventHead1 | status | errorFlags =>
    exact h.setFlags _
  | divider => exact h.of_fields rfl rfl rfl
  | memoryTimeout | passFault => exact h.setMgmt rfl h.fit.pointer
  | lineEnables => exact State.EventsFitAwake.refreshLines h.awake h.fit.queue h.fit.pointer
  | eventPop => exact h.popEvent v
  | control => exact h.writeControl v
  | structural r g => exact State.EventsFitAwake.whileRunning h (h.writeStructural r g v)
  | live r g => exact State.EventsFitAwake.whileRunning h (h.writeLive r g v)
  | command r => exact State.EventsFitAwake.whileRunning h (h.takeCommand r _)
  | fillCounter r c => exact State.EventsFitAwake.whileRunning h h.of_fields
  | lateCounter r => exact State.EventsFitAwake.whileRunning h (h.setRing r _)

theorem State.EventsFitAwake.acknowledge (h : s.EventsFitAwake) {a : BitVec 16} (aligned : alignPointer a = a) :
    (s.acknowledge a).EventsFitAwake := h.setMgmt rfl aligned

/-! ## Every command -/

/-- A part held in reset ignores the bus (R163, R173). -/
theorem State.EventsFit.ignoreBus (h : s.EventsFit) : s.ignoreBus.EventsFit := h.setMgmt rfl h.pointer

theorem State.EventsFit.completeWrite (h : s.EventsFit) {a : BitVec 16} (aligned : alignPointer a = a) (reg : Reg)
    (v : Word) : (s.completeWrite a reg v).EventsFit := by
  unfold State.completeWrite
  split
  · exact h.ignoreBus
  · rename_i out
    have awake : s.EventsFitAwake := ⟨h, Bool.eq_false_of_not_eq_true out⟩
    exact ((awake.writeReg reg v).acknowledge (alignPointer_add_four aligned)).fit

theorem State.EventsFit.outOfReset (h : s.EventsFit) {f : State → State}
    (keeps : s.EventsFitAwake → (f s).EventsFitAwake) : (s.outOfReset f).EventsFit := by
  unfold State.outOfReset
  split
  · exact h
  · rename_i out
    exact (keeps ⟨h, Bool.eq_false_of_not_eq_true out⟩).fit

theorem State.EventsFit.addressed (h : s.EventsFit) (target : BitVec 7) {f : State → State}
    (keeps : s.EventsFitAwake → (f s).EventsFit) : (s.addressed target f).EventsFit := by
  unfold State.addressed
  split
  · exact h.ignoreBus
  · rename_i own
    obtain ⟨out, -⟩ := not_or.mp own
    exact keeps ⟨h, Bool.eq_false_of_not_eq_true out⟩

/-- The queue is empty, every line is deasserted and the pointer names the first register (R134, R163). -/
theorem State.reset_eventsFit : State.reset.EventsFit where
  lines := (lineLevels_nil _).symm
  queue := EventQueue.WellFormed.of_nil rfl
  pointer := by unfold State.PointerAligned; decide

/-- A read moves the pointer on after the fourth byte (R165). -/
theorem State.EventsFitAwake.readAtPointer (h : s.EventsFitAwake) (bytes : Nat) :
    (s.readAtPointer bytes).EventsFit := by
  refine h.fit.setMgmt rfl ?_
  dsimp only [State.acknowledge]
  split
  · exact h.fit.pointer
  · exact alignPointer_add_four h.fit.pointer

/-- Every command keeps the events, the lines and the pointer in order. -/
theorem State.EventsFit.exec {t : State} (h : s.EventsFit) (c : Instr) (next : exec c s = .next t) : t.EventsFit := by
  cases c <;> cases next
  case hardwareReset a1 a0 =>
    exact State.EventsFit.of_fields (State.reset_eventsFit.setMgmt (m := { Management.reset with
      i2cAddress := i2cAddressOf a1 a0 }) rfl State.reset_eventsFit.pointer) rfl rfl rfl
  case heldInReset cut => exact ⟨rfl, h.queue.of_records rfl rfl, h.pointer⟩
  case requestAcceptance q => exact h.outOfReset fun out => out.of_fields
  case writeAdmission =>
    exact h.outOfReset fun out => out.takeOldestAdmission .write fun u x r e hs => hs.takeWrite u x r e
  case readAdmission =>
    exact h.outOfReset fun out => out.takeOldestAdmission .read fun u x r e hs => hs.takeRead u x r e
  case reAdmission => exact h.outOfReset fun out => out.readmitHead
  case issueHead => exact h.outOfReset fun out => out.considerHead
  case memoryResponse id status data => exact h.outOfReset fun out => out.takeResponse id status data
  case drainEnd r => exact h.outOfReset fun out => out.testDrainEnd r
  case clearEnd r => exact h.outOfReset fun out => out.testClearEnd r
  case tick n => exact h.outOfReset fun out => out.refclkCycles n
  case expiry => exact h.outOfReset fun out => out.takeExpiries
  case responseTimeout => exact h.outOfReset fun out => out.takeTimeouts
  case responseDelivery => exact h.outOfReset fun out => out.deliverHead
  case partResetCompletion => exact h.outOfReset fun out => out.testResetCompletion
  case registerWrite target value => exact h.addressed target fun _ => h.completeWrite h.pointer _ _
  case registerPointerSet target address =>
    exact h.addressed target fun out => (out.acknowledge (alignPointer_alignPointer _)).fit
  case partialWriteEnd target stop =>
    refine h.addressed target fun out => State.EventsFitAwake.fit (State.EventsFitAwake.acknowledge ?_ h.pointer)
    cases stop with
    | noAddressByte | noData | afterGroup => exact out
    | oneAddressByte | insideGroup => exact out.setFlags _
  case registerRead target bytes => exact h.addressed target fun out => out.readAtPointer bytes
  all_goals exact h.completeWrite (Reg.address_aligned _) _ _

end

/-- Settles O55: a step executes the front command with the rest of the queue, and every command keeps the records
numbered, the lines by their rule and the pointer aligned (`State.EventsFit.exec`). -/
theorem eventsAndPointerStayWellFormed : Obligations.EventsAndPointerStayWellFormed := by
  intro s t ⟨lines, queue, pointer⟩ next
  have fits : s.EventsFit := ⟨lines, queue, pointer⟩
  have kept : t.EventsFit := by
    unfold Machine.step at next
    split at next
    · cases next
      exact fits
    · rename_i c rest _
      have dequeued : State.EventsFit { s with pending := rest } := fits.of_fields
      exact dequeued.exec c next
  exact ⟨kept.lines, kept.queue, kept.pointer⟩

/-! ## Right after a hardware reset -/

/-- Every ring is as R14, R41 and R121 leave it. -/
theorem State.ring_reset (r : RingNo) : State.reset.ring r = Ring.reset := Vector.getElem_replicate ..

/-- The pool is empty (R107). -/
theorem State.reset_poolFits : State.reset.PoolFits where
  form := ⟨List.nodup_nil, List.nodup_nil, by simp [State.reset, HoldPool.reset]⟩
  active := nofun

/-- Nothing is queued, reserved or outstanding (R162). -/
theorem State.reset_memoryPort : State.reset.mem.Safe ∧ State.reset.QueueFits :=
  ⟨⟨List.nodup_nil, List.Pairwise.nil⟩, Nat.zero_le _⟩

/-- No entry holds a request, and every count is 0 (R149). -/
theorem State.reset_countsAgree : State.reset.CountsAgree := fun m => by
  have none_held : State.reset.sys.table.toList = List.replicate 64 none := Vector.toList_replicate
  have count : State.reset.sys.undelivered[m.val] = 0 := Vector.getElem_replicate ..
  rw [count, none_held]
  simp

theorem State.reset_boardsFit : State.reset.BoardsFit := fun r =>
  State.ring_reset r ▸ Ring.boardsFit_of_empty rfl rfl rfl

/-- Settles O54: a part right after a hardware reset has no request, no record and every ring OFF
(`State.reset_soundUpTo`). -/
theorem invariantsHoldAtReset : Obligations.InvariantsHoldAtReset :=
  have events := State.reset_eventsFit
  have pool := State.reset_poolFits
  have sound := State.reset_soundUpTo.sound
  have off : ∀ r, (State.reset.ring r).state = .off := fun r => by rw [State.ring_reset]; rfl
  ⟨⟨events.lines, events.queue, events.pointer⟩, State.reset_memoryPort,
    State.reset.boardsFit_iff.mp State.reset_boardsFit, ⟨pool.form, pool.active⟩, State.reset_countsAgree,
    ⟨State.AddressLaw.of_off off, sound.clearing⟩, sound⟩

end Sys2Proof.Machine
end

section
/-! The system port: the words of a request (O8), an acceptance by its conditions (O11), what it records (O12) and its
protocol checks (O13), a delivery (O16). -/

namespace Sys2Proof.Machine

/-! ## The words of a request -/

theorem directionOfBit_directionBit (d : Direction) : directionOfBit (directionBit d) = d := by
  cases d <;> rfl

section
variable (q : Request)

/-- The fields of word 0 of a request (10.7). -/
theorem requestWord0_fields :
    (requestWord0 q).extractLsb' 0 4 = BitVec.ofNat 4 q.master.val
    ∧ (requestWord0 q).extractLsb' 4 6 = q.tag
    ∧ (requestWord0 q).extractLsb' 10 1 = directionBit q.direction
    ∧ (requestWord0 q).extractLsb' 11 9 = q.length
    ∧ (requestWord0 q).extractLsb' 20 8 = q.address.extractLsb' 32 8 := by
  unfold requestWord0
  refine ⟨?_, ?_, ?_, ?_, ?_⟩ <;>
    simp (disch := omega) only [extract_append_low, extract_append_high, extract_whole, Nat.reduceSub, Nat.sub_self]

/-- The address is split between the two header words (10.7). -/
theorem request_address_joined : q.address.extractLsb' 32 8 ++ requestWord1 q = q.address :=
  (extract_append_extract q.address 0 8 32).trans (extract_whole q.address)

/-- A well-formed write's data words hold its bytes, and a well-formed read has none (R135). -/
theorem requestOfWords_data (wf : q.WellFormed = true) :
    (requestOfWords (requestWord0 q) (requestWord1 q) (dataWords q.data)).data = q.data := by
  obtain ⟨-, -, direction, length, -⟩ := requestWord0_fields q
  unfold Request.WellFormed at wf
  simp only [requestOfWords, direction, length, directionOfBit_directionBit]
  cases kind : q.direction with
  | read =>
    rw [kind] at wf
    exact (List.isEmpty_iff.mp wf).symm
  | write =>
    rw [kind] at wf
    rw [← eq_of_beq wf]
    exact bytesOfWords_dataWords q.data

/-- The fields other than the data come back from the header words alone. -/
theorem requestOfWords_header (words : List Word) : requestOfWords (requestWord0 q) (requestWord1 q) words
    = { q with data := (requestOfWords (requestWord0 q) (requestWord1 q) words).data } := by
  obtain ⟨master, tag, direction, length, address⟩ := requestWord0_fields q
  have number : (BitVec.ofNat 4 q.master.val).toNat = q.master.val := by simp
  simp only [requestOfWords, master, number, tag, direction, length, address, request_address_joined,
    directionOfBit_directionBit]

end

/-- Settles O8: the header's fields and the data are the request's own. -/
theorem requestWordsSpellTheRequest : Obligations.RequestWordsSpellTheRequest := by
  intro q wf
  rw [requestOfWords_header, requestOfWords_data q wf]

/-! ## Acceptance -/

section
variable {s : State} {q : Request} {u : TxnNo}

/-- A request is accepted into the lowest free entry when the conditions of R136 hold (R137). -/
theorem exec_requestAcceptance (reset : s.inReset = false) (accepts : s.accepts q.master = true)
    (free : s.freeTxn = some u) : exec (.requestAcceptance q) s = .next (s.acceptInto u q) := by
  simp only [exec, execRequestAcceptance, State.outOfReset_of reset, State.acceptRequest, accepts, free, if_true]

/-- Where a condition of R136 but the free entry fails, or no entry is free, the request waits on its link. -/
theorem exec_requestAcceptance_waits (reset : s.inReset = false)
    (waits : s.accepts q.master = true → s.freeTxn = none) : exec (.requestAcceptance q) s = .next s := by
  simp only [exec, execRequestAcceptance, State.outOfReset_of reset, State.acceptRequest]
  split
  · rename_i accepts
    rw [waits accepts]
  · rfl

end

/-- The entry holds a request as its link brought it (R137, R140). -/
def Txn.Records (x : Txn) (q : Request) : Prop :=
  x.master = q.master ∧ x.tag = q.tag ∧ x.direction = q.direction ∧ x.address = q.address
    ∧ x.length = q.length.toNat ∧ x.cleared = false

/-- An acceptance, whatever the request's class: the entry records it, its master's count rises, and no other entry, no
other count, no link and no outstanding operation changes (R137, R140). -/
theorem State.acceptInto_facts (s : State) (q : Request) (u : TxnNo) :
    (∃ x, (s.acceptInto u q).txn u = some x ∧ x.Records q)
    ∧ (∀ w, w ≠ u → (s.acceptInto u q).txn w = s.txn w)
    ∧ (∀ m : MasterNo, (s.acceptInto u q).sys.undelivered[m.val]
        = if m = q.master then s.sys.undelivered[m.val] + 1 else s.sys.undelivered[m.val])
    ∧ (s.acceptInto u q).sys.link = s.sys.link ∧ (s.acceptInto u q).mem.outstanding = s.mem.outstanding
    ∧ (s.acceptInto u q).mem.link = s.mem.link := by
  obtain ⟨b, accepted, txn, counts, -, link, -, -, -, -, -, -, -, mem, -, -, -⟩ := s.acceptInto_base q u
  have filled : b.txn u = some (acceptedTxn q (s.requestData q)) := (txn u).trans (if_pos rfl)
  have others (w : TxnNo) (ne : w ≠ u) : b.txn w = s.txn w := (txn w).trans (if_neg ne)
  rw [accepted]
  split
  · refine ⟨⟨_, (State.txn_answer ..).trans ((if_pos rfl).trans (congrArg _ filled)), rfl, rfl, rfl, rfl, rfl, rfl⟩,
      fun w ne => ?_, ?_, ?_, ?_, ?_⟩
    · rw [State.txn_answer, if_neg ne, others w ne]
    · simpa using counts
    · simpa using link
    · simp [mem]
    · simp [mem]
  · obtain ⟨⟨y, entry, recorded⟩, kept, undelivered, sysLink, outstanding, memLink⟩ :=
      b.decodeRequest_facts u (acceptedTxn q (s.requestData q))
    refine ⟨⟨y, entry, recorded⟩, fun w ne => (kept w ne).trans (others w ne), fun m => ?_, sysLink.trans link,
      outstanding.trans (congrArg _ mem), memLink.trans (congrArg _ mem)⟩
    simpa only [undelivered] using counts m

/-- Settles O11: the model's test counts what R136's five conditions count (`State.accepts_iff`), and a free entry is
found when there is one. -/
theorem acceptanceNeedsFiveConditions : Obligations.AcceptanceNeedsFiveConditions := by
  intro q s reset
  split
  · rename_i conditions
    obtain ⟨running, free, below, room, released⟩ := conditions
    obtain ⟨u, lowest⟩ := State.freeTxn_isSome s free
    obtain ⟨⟨x, entry, master, tag, -⟩, -, counts, -⟩ := s.acceptInto_facts q u
    have accepts := (s.accepts_iff q.master).mpr ⟨running, below, room, released⟩
    exact ⟨_, exec_requestAcceptance reset accepts lowest, (counts q.master).trans (if_pos rfl), u, x,
      s.freeTxn_spec lowest, entry, master, tag⟩
  · rename_i fails
    refine exec_requestAcceptance_waits reset fun accepts => ?_
    obtain ⟨running, below, room, released⟩ := (s.accepts_iff q.master).mp accepts
    cases lowest : s.freeTxn with
    | none => rfl
    | some u => exact absurd ⟨running, ⟨u, s.freeTxn_spec lowest⟩, below, room, released⟩ fails

/-- Settles O12: what every acceptance records and leaves (`State.acceptInto_facts`). -/
theorem acceptedRequestTakesLowestEntry : Obligations.AcceptedRequestTakesLowestEntry := by
  intro q s u reset accepts free lowest
  obtain ⟨recorded, others, counts, links⟩ := s.acceptInto_facts q u
  refine ⟨_, exec_requestAcceptance reset accepts (s.freeTxn_of_lowest free lowest), recorded, others, counts, ?_, links⟩
  exact State.eq_of_fields (State.acceptInto_inReset ..) (State.acceptInto_part ..) (State.acceptInto_mgmt ..)
    (State.acceptInto_time ..) (State.acceptInto_rings ..) rfl (State.acceptInto_pool ..) rfl rfl
    (State.acceptInto_events ..) rfl (State.acceptInto_pending ..)

/-- A request that fails a protocol check is answered PROTOCOL, and nothing is queued or reserved (R139). -/
theorem State.acceptInto_rejects (s : State) {q : Request} (u : TxnNo)
    (fails : q.length.toNat = 0 ∨ Config.longestRequest < q.length.toNat ∨ s.tagClash q = true) :
    (s.acceptInto u q).txn u = some ((acceptedTxn q (s.requestData q)).answered .protocol [])
    ∧ (s.acceptInto u q).sys.readyOrder = s.sys.readyOrder ++ [u]
    ∧ (s.acceptInto u q).awaiting = s.awaiting ∧ (s.acceptInto u q).mem = s.mem := by
  obtain ⟨b, accepted, txn, -, ready, -, -, -, -, -, -, awaiting, -, mem, -, -, -⟩ := s.acceptInto_base q u
  have filled : b.txn u = some (acceptedTxn q (s.requestData q)) := (txn u).trans (if_pos rfl)
  rw [accepted, if_pos fails, State.txn_answer, if_pos rfl, filled, State.answer_readyOrder_of_some b filled, ready,
    State.answer_awaiting, awaiting, State.answer_mem, mem]
  exact ⟨rfl, rfl, rfl, rfl⟩

/-- Settles O13: the failed check's answer (`State.acceptInto_rejects`) over what every acceptance leaves. -/
theorem protocolChecksAnswerProtocol : Obligations.ProtocolChecksAnswerProtocol := by
  intro q s u reset accepts free lowest fails
  rw [← State.tagClash_iff] at fails
  obtain ⟨entry, ready, awaiting, mem⟩ := s.acceptInto_rejects u fails
  obtain ⟨-, others, counts, link, -⟩ := s.acceptInto_facts q u
  refine ⟨_, exec_requestAcceptance reset accepts (s.freeTxn_of_lowest free lowest), ?_, ready, link, counts, others,
    entry⟩
  exact State.eq_of_fields (State.acceptInto_inReset ..) (State.acceptInto_part ..) (State.acceptInto_mgmt ..)
    (State.acceptInto_time ..) (State.acceptInto_rings ..) awaiting (State.acceptInto_pool ..) rfl mem
    (State.acceptInto_events ..) rfl (State.acceptInto_pending ..)

/-! ## Delivery -/

section
variable (s : State) {u : TxnNo} {rest : List TxnNo} {x : Txn}

/-- The state in which a delivery makes the completion test: the entry free, the count lowered, the response on its
link (R146, R147). -/
def State.delivered (u : TxnNo) (rest : List TxnNo) (x : Txn) : State :=
  { s with sys := {
      table := s.sys.table.set u.val none
      undelivered := s.sys.undelivered.set x.master.val (s.sys.undelivered[x.master.val] - 1)
      readyOrder := rest
      link := some x.response } }

theorem State.deliverHead_eq (ready : s.sys.readyOrder = u :: rest) (txn : s.txn u = some x) :
    s.deliverHead = (s.delivered u rest x).testResetCompletion := by
  simp only [State.deliverHead, ready, txn]
  rfl

/-- A delivery frees its entry and no other. -/
theorem State.txn_delivered (u w : TxnNo) (rest : List TxnNo) (x : Txn) :
    (s.delivered u rest x).txn w = if w = u then none else s.txn w := s.txn_setTxn u w none

theorem State.undelivered_delivered (u : TxnNo) (rest : List TxnNo) (x : Txn) (m : MasterNo) :
    (s.delivered u rest x).sys.undelivered[m.val]
      = if m = x.master then s.sys.undelivered[m.val] - 1 else s.sys.undelivered[m.val] := by
  refine (s.undelivered_setUndelivered x.master m _).trans ?_
  split
  · rename_i own
    rw [own]
  · rfl

end

/-- Settles O16: a delivery is its own part (`State.delivered`) and then the completion test, which does nothing in
RUNNING. -/
theorem deliveryTakesOldestReady : Obligations.DeliveryTakesOldestReady := by
  intro s u rest x a reset ready txn status
  have delivery : exec .responseDelivery s = .next (s.delivered u rest x).testResetCompletion := by
    simp only [exec, execResponseDelivery, State.outOfReset_of reset, s.deliverHead_eq ready txn]
  refine ⟨s.delivered u rest x, rfl, (s.txn_delivered u u rest x).trans (if_pos rfl),
    fun w ne => (s.txn_delivered u w rest x).trans (if_neg ne), rfl, ?_, s.undelivered_delivered u rest x, delivery,
    fun running => ?_⟩
  · simp only [State.delivered, Txn.response, status, Option.getD_some]
  · rw [delivery, State.testResetCompletion_of_running (s.delivered u rest x) running]

end Sys2Proof.Machine
end

section
/-! The undelivered counts: every event but a hardware reset, an acceptance and a delivery keeps the master of every
entry and every count, an acceptance fills a free entry and counts it, a delivery frees an entry and counts it off
(O59). -/

namespace Sys2Proof.Machine

/-! ## The entries of a master -/

/-- The entries that hold a master's requests (R140). -/
def State.heldBy (s : State) (m : MasterNo) : Finset TxnNo := Finset.univ.filter fun u => s.masterOf u = some m

theorem State.countP_table_eq_card (s : State) (m : MasterNo) :
    s.sys.table.toList.countP (fun o => o.any fun x => x.master = m) = (s.heldBy m).card := by
  have table : s.sys.table.toList = (List.finRange 64).map s.txn := by
    apply List.ext_getElem <;> simp [State.txn]
  have holds (u : TxnNo) : ((s.txn u).any fun x => x.master = m) = decide (s.masterOf u = some m) := by
    unfold State.masterOf
    cases s.txn u <;> simp
  rw [table, List.countP_map, List.countP_eq_length_filter]
  simp only [Function.comp_def, holds]
  rfl

theorem State.countsAgree_iff (s : State) :
    s.CountsAgree ↔ ∀ m : MasterNo, s.sys.undelivered[m.val] = (s.heldBy m).card ∧ s.sys.undelivered[m.val] ≤ 16 := by
  simp only [State.CountsAgree, State.countP_table_eq_card, Config.undeliveredLimit]

/-- An entry that is filled joins the entries of its master and no others. -/
theorem State.card_heldBy_of_filled {s t : State} {u : TxnNo} {k : MasterNo} (free : s.masterOf u = none)
    (filled : t.masterOf u = some k) (others : ∀ w, w ≠ u → t.masterOf w = s.masterOf w) (m : MasterNo) :
    (t.heldBy m).card = (s.heldBy m).card + if m = k then 1 else 0 := by
  have outside : u ∉ s.heldBy m := by simp [State.heldBy, free]
  split
  · rename_i own
    rw [← Finset.card_insert_of_notMem outside]
    congr 1
    ext w
    by_cases here : w = u
    · simp [State.heldBy, here, filled, own]
    · simp [State.heldBy, here, others w here]
  · rename_i other
    rw [Nat.add_zero]
    congr 1
    ext w
    by_cases here : w = u
    · simp [State.heldBy, here, free, filled, Ne.symm other]
    · simp [State.heldBy, others w here]

/-! ## Events that keep every entry's master -/

/-- Every entry holds a request of the same master as before, or none as before, and every count stands (R144, R147). -/
structure State.KeepsHolders (s₀ s : State) : Prop where
  counts : s.sys.undelivered = s₀.sys.undelivered
  masters : ∀ u, s.masterOf u = s₀.masterOf u

theorem State.CountsAgree.of_keepsHolders {s₀ s : State} (agree : s₀.CountsAgree) (h : s₀.KeepsHolders s) :
    s.CountsAgree := by
  rw [State.countsAgree_iff] at agree ⊢
  intro m
  have entries : s.heldBy m = s₀.heldBy m := by simp only [State.heldBy, h.masters]
  rw [entries, h.counts]
  exact agree m

section
variable {s₀ s s' : State}

theorem State.masterOf_of_txn {u : TxnNo} {x : Txn} (txn : s.txn u = some x) : s.masterOf u = some x.master := by
  simp [State.masterOf, txn]

theorem State.KeepsHolders.refl (s : State) : s.KeepsHolders s := ⟨rfl, fun _ => rfl⟩

theorem State.KeepsHolders.trans (h : s₀.KeepsHolders s) (k : s.KeepsHolders s') : s₀.KeepsHolders s' :=
  ⟨k.counts.trans h.counts, fun u => (k.masters u).trans (h.masters u)⟩

/-- A change that leaves the system port alone. -/
theorem State.KeepsHolders.of_sys (h : s₀.KeepsHolders s) (sys : s'.sys = s.sys := by simp) : s₀.KeepsHolders s' :=
  h.trans ⟨congrArg SystemPort.undelivered sys, fun u => by simp only [State.masterOf, State.txn_congr sys]⟩

/-- The master of a request that is being dealt with was the entry's before the event. -/
theorem State.KeepsHolders.owner (h : s₀.KeepsHolders s) {u : TxnNo} {x : Txn} (txn : s.txn u = some x) :
    s₀.masterOf u = some x.master := (h.masters u).symm.trans (State.masterOf_of_txn txn)

/-- An entry is written again for its own master's request. -/
theorem State.KeepsHolders.setTxn (h : s₀.KeepsHolders s) {u : TxnNo} {x : Txn} (own : s₀.masterOf u = some x.master) :
    s₀.KeepsHolders (s.setTxn u (some x)) where
  counts := h.counts
  masters w := by
    by_cases here : w = u
    · rw [here, State.masterOf_of_txn (State.txn_setTxn_self ..), own]
    · rw [State.masterOf, State.txn_setTxn_ne _ here]
      exact h.masters w

/-! ### The transaction table -/

theorem State.KeepsHolders.answer (h : s₀.KeepsHolders s) (u : TxnNo) (a : Status) (d : List Byte) :
    s₀.KeepsHolders (s.answer u a d) :=
  h.trans ⟨State.answer_undelivered .., fun w => State.masterOf_answer s u w a d⟩

theorem State.KeepsHolders.answerHeld (h : s₀.KeepsHolders s) (chosen : HoldEntry → Bool)
    (status : HoldEntry → Status) : s₀.KeepsHolders (s.answerHeld chosen status) :=
  h.trans ⟨State.answerHeld_undelivered .., s.masterOf_answerHeld chosen status⟩

theorem State.KeepsHolders.enqueueParts (h : s₀.KeepsHolders s) {u : TxnNo} {x : Txn}
    (own : s₀.masterOf u = some x.master) (c : OpClass) : s₀.KeepsHolders (s.enqueueParts u x c) :=
  State.KeepsHolders.of_sys (State.KeepsHolders.setTxn h
    (x := { x with outstanding := x.parts.length, stage := .queued, data := [] }) own) rfl

theorem State.KeepsHolders.askHold (h : s₀.KeepsHolders s) {u : TxnNo} {x : Txn} (own : s₀.masterOf u = some x.master)
    (r : RingNo) (w : HoldReason) : s₀.KeepsHolders (s.askHold u x r w) := by
  unfold State.askHold
  split
  · split
    · exact State.KeepsHolders.setTxn h.of_sys own
    · exact h.answer _ _ _
  · exact h.answer _ _ _

theorem State.KeepsHolders.markCleared (h : s₀.KeepsHolders s) (r : RingNo) : s₀.KeepsHolders (s.markCleared r) := by
  have master (x : Txn) : (x.markCleared r).master = x.master := by
    unfold Txn.markCleared
    split <;> rfl
  refine h.trans ⟨rfl, fun u => ?_⟩
  simp only [State.masterOf, State.txn_markCleared, Option.map_map, Function.comp_def, master]

/-! ### The ring engine -/

theorem State.KeepsHolders.setRing (h : s₀.KeepsHolders s) (r : RingNo) (y : Ring) : s₀.KeepsHolders (s.setRing r y) :=
  h.of_sys

theorem State.KeepsHolders.raise (h : s₀.KeepsHolders s) (r : RingNo) (k : EventKind) (p : Option Nat)
    (c : EventCount) : s₀.KeepsHolders (s.raise r k p c) := h.of_sys

theorem State.KeepsHolders.testDrainEnd (h : s₀.KeepsHolders s) (r : RingNo) : s₀.KeepsHolders (s.testDrainEnd r) :=
  h.of_sys

theorem State.KeepsHolders.absorbReads (h : s₀.KeepsHolders s) (r : RingNo) : s₀.KeepsHolders (s.absorbReads r) :=
  h.of_sys

theorem State.KeepsHolders.testResetCompletion (h : s₀.KeepsHolders s) : s₀.KeepsHolders s.testResetCompletion :=
  h.of_sys

theorem State.KeepsHolders.testClearEnd (h : s₀.KeepsHolders s) (r : RingNo) : s₀.KeepsHolders (s.testClearEnd r) :=
  iteInduction (motive := s₀.KeepsHolders) (fun _ => ((h.setRing r _).markCleared r).raise _ _ _ _) fun _ => h

theorem State.KeepsHolders.beginClear (h : s₀.KeepsHolders s) (r : RingNo) : s₀.KeepsHolders (s.beginClear r) :=
  ((h.answerHeld _ _).setRing r _).testClearEnd r

theorem State.KeepsHolders.enterHalted (h : s₀.KeepsHolders s) (r : RingNo) : s₀.KeepsHolders (s.enterHalted r) :=
  ((h.setRing r _).answerHeld _ _).raise _ _ _ _

theorem State.KeepsHolders.absorbWrites (h : s₀.KeepsHolders s) (r : RingNo) : s₀.KeepsHolders (s.absorbWrites r) := by
  rw [State.absorbWrites_eq]
  refine State.KeepsHolders.of_sys (s := s.settleWrites r) ?_
  unfold State.settleWrites
  extract_lets x a poisoned
  have h1 : s₀.KeepsHolders poisoned := 
    foldl_keeps _ s₀.KeepsHolders _ (fun _ e _ hs => hs.raise r _ _ _) _ (h.setRing r _)
  exact iteInduction (motive := s₀.KeepsHolders) (fun _ => h1.enterHalted r) fun _ => h1

theorem State.KeepsHolders.endWrite (h : s₀.KeepsHolders s) (r : RingNo) (u : TxnNo) (ok : Bool) :
    s₀.KeepsHolders (s.endWrite r u ok) := by
  unfold State.endWrite
  extract_lets x fill s1 s2
  have h1 : s₀.KeepsHolders s1 := h.setRing r _
  have h2 : s₀.KeepsHolders s2 := h1.answer _ _ _
  exact iteInduction (motive := s₀.KeepsHolders) (fun _ => h2.absorbWrites r) fun _ => h2

theorem State.KeepsHolders.endRead (h : s₀.KeepsHolders s) (r : RingNo) (u : TxnNo) (ok : Bool) (data : List Byte) :
    s₀.KeepsHolders (s.endRead r u ok data) := by
  have answered (a : Status) (d : List Byte) : s₀.KeepsHolders (s.answer u a d) := h.answer u a d
  unfold State.endRead
  dsimp only
  split
  · split
    · split
      · exact ((answered _ _).setRing r _).absorbReads r
      · exact (answered _ _).setRing r _
    · exact answered _ _
  · exact (answered _ _).setRing r _

/-! ### Admissions -/

theorem State.KeepsHolders.overtake (h : s₀.KeepsHolders s) (r : RingNo) (e : Nat) :
    s₀.KeepsHolders (s.overtake r e) := by
  rw [State.overtake_eq]
  have overtaken : s₀.KeepsHolders (s.overtaken r e) := ((h.setRing r _).answerHeld (s.isStale r) _).setRing r _
  exact overtaken.of_sys

theorem State.KeepsHolders.takeWrite (h : s₀.KeepsHolders s) {u : TxnNo} {x : Txn} (own : s₀.masterOf u = some x.master)
    (r : RingNo) (e : Extent) : s₀.KeepsHolders (s.takeWrite u x r e) := by
  unfold State.takeWrite
  split
  · exact h.answer _ _ _
  split
  · have rejected : s₀.KeepsHolders (s.setTxn u (some { x with cls := some .reject })) := h.setTxn own
    exact rejected.answer _ _ _
  · exact (h.setRing r _).answer _ _ _
  · exact h.answer _ _ _
  · exact h.askHold own r .room
  · have placed : s₀.KeepsHolders (s.setRing r ((s.ring r).placeWrite u e)) := h.setRing r _
    unfold State.admitWrite
    dsimp only
    split
    · exact (placed.overtake r e.stop).enqueueParts own _
    · exact placed.enqueueParts own _

theorem State.KeepsHolders.poisonedRead (h : s₀.KeepsHolders s) (u : TxnNo) (r : RingNo) (part : Option Extent) :
    s₀.KeepsHolders (s.poisonedRead u r part) := by
  have answered : s₀.KeepsHolders (s.answer u .poisoned) := h.answer _ _ _
  cases part with
  | none => exact answered
  | some c =>
    rw [State.poisonedRead_some]
    exact (answered.setRing r _).absorbReads r

theorem State.KeepsHolders.readOutcome (h : s₀.KeepsHolders s) {u : TxnNo} {x : Txn}
    (own : s₀.masterOf u = some x.master) (r : RingNo) (part : Option Extent) (outcome : ReadOutcome) :
    s₀.KeepsHolders (s.readOutcome u x r part outcome) := by
  cases outcome with
  | answer status => exact h.answer _ _ _
  | hold => exact h.askHold own _ _
  | poisoned => exact h.poisonedRead _ _ _
  | admitted => exact (h.setRing r _).enqueueParts own _

theorem State.KeepsHolders.takeRead (h : s₀.KeepsHolders s) {u : TxnNo} {x : Txn} (own : s₀.masterOf u = some x.master)
    (r : RingNo) (e : Extent) : s₀.KeepsHolders (s.takeRead u x r e) := by
  rw [State.takeRead_eq]
  generalize readClass (s.ring r) x.master = cls
  have classed : s₀.KeepsHolders (s.setTxn u (some { x with cls := some cls })) := h.setTxn own
  split
  · exact classed.answer _ _ _
  · exact classed.readOutcome (x := { x with cls := some cls }) own _ _ _

/-- An admission is taken for the request of an entry that holds one (R3). -/
theorem State.KeepsHolders.takeOldestAdmission (h : s₀.KeepsHolders s) (direction : Direction)
    {take : State → TxnNo → Txn → RingNo → Extent → State}
    (keeps : ∀ {s : State} {u : TxnNo} {x : Txn} (r : RingNo) (e : Extent), s₀.KeepsHolders s →
      s₀.masterOf u = some x.master → s₀.KeepsHolders (take s u x r e)) :
    s₀.KeepsHolders (s.takeOldestAdmission direction take) := by
  unfold State.takeOldestAdmission
  split
  · exact h
  split
  · exact h
  rename_i x txn
  split
  · split
    · exact keeps _ _ h.of_sys (h.owner txn)
    · exact h
  · exact h

theorem State.KeepsHolders.admitHeld (h : s₀.KeepsHolders s) (g : HoldEntry) : s₀.KeepsHolders (s.admitHeld g) := by
  unfold State.admitHeld
  split
  · exact h
  rename_i x txn
  have own := h.owner txn
  split
  · exact h
  split
  · refine h.takeWrite ?_ _ _
    exact own
  · exact h.takeRead own _ _

theorem State.KeepsHolders.readmitHead (h : s₀.KeepsHolders s) : s₀.KeepsHolders s.readmitHead := by
  unfold State.readmitHead
  split
  · split
    · exact h
    split
    · exact h
    · exact State.KeepsHolders.admitHeld h.of_sys _
  · exact h

/-! ### The memory port and the timebase -/

theorem State.KeepsHolders.issue (h : s₀.KeepsHolders s) (op : Operation) (rest : List Operation) (id : OpId) :
    s₀.KeepsHolders (s.issue op rest id) := by
  unfold State.issue
  extract_lets record sent port s1
  have h1 : s₀.KeepsHolders s1 := h.of_sys rfl
  split
  · rename_i x txn
    have own : s₀.masterOf op.transaction = some x.master := h1.owner txn
    split
    · exact h1.setTxn own
    · exact h1
  · exact h1

theorem State.KeepsHolders.considerHead (h : s₀.KeepsHolders s) : s₀.KeepsHolders s.considerHead := by
  unfold State.considerHead
  split
  · exact h
  rename_i op rest _
  split
  · have dequeued : s₀.KeepsHolders { s with mem := { s.mem with queue := rest } } := h.of_sys
    exact (dequeued.answer _ _ _).testResetCompletion
  split
  · exact h
  split
  · exact h
  · exact h.issue _ _ _

theorem State.KeepsHolders.endPassThrough (h : s₀.KeepsHolders s) (u : TxnNo) (x : Txn) :
    s₀.KeepsHolders (s.endPassThrough u x) := by
  have answered (a : Status) (d : List Byte) : s₀.KeepsHolders (s.answer u a d) := h.answer u a d
  unfold State.endPassThrough
  dsimp only
  split
  · exact answered _ _
  split
  · exact State.KeepsHolders.of_sys (answered .fault []) (State.offer_sys ..)
  · exact answered _ _

theorem State.KeepsHolders.endRingRequest (h : s₀.KeepsHolders s) (r : RingNo) (u : TxnNo) (x : Txn) :
    s₀.KeepsHolders (s.endRingRequest r u x) := by
  unfold State.endRingRequest
  split
  · exact h.endWrite _ _ _
  · exact h.endRead _ _ _ _

theorem State.KeepsHolders.reportEnd (h : s₀.KeepsHolders s) (u : TxnNo) (p : PartNo) (e : OpEnd) :
    s₀.KeepsHolders (s.reportEnd u p e) := by
  cases txn : s.txn u with
  | none =>
    simp only [State.reportEnd, txn]
    exact h.testResetCompletion
  | some x =>
    have own : s₀.masterOf u = some x.master := h.owner txn
    have recorded : s₀.KeepsHolders (s.setTxn u (some (x.endPart p e))) := h.setTxn own
    cases ring : x.ring with
    | none =>
      rw [State.reportEnd_passThrough s txn ring]
      exact State.KeepsHolders.testResetCompletion
        (iteInduction (motive := s₀.KeepsHolders) (fun _ => recorded.endPassThrough _ _) fun _ => recorded)
    | some r =>
      rw [State.reportEnd_ring s txn ring]
      refine State.KeepsHolders.testResetCompletion (State.KeepsHolders.testClearEnd ?_ r)
      exact iteInduction (motive := s₀.KeepsHolders) (fun _ => recorded.endRingRequest _ _ _) fun _ => recorded

theorem State.KeepsHolders.takeResponse (h : s₀.KeepsHolders s) (id : BitVec 6) (status : MemoryStatus)
    (data : List Byte) : s₀.KeepsHolders (s.takeResponse id status data) := by
  unfold State.takeResponse
  split
  · exact h
  split
  · exact h.of_sys
  split <;> exact State.KeepsHolders.reportEnd h.of_sys _ _ _

theorem State.KeepsHolders.takeTimeouts (h : s₀.KeepsHolders s) : s₀.KeepsHolders s.takeTimeouts :=
  foldl_keeps _ s₀.KeepsHolders _ (fun s o _ hs =>
    State.KeepsHolders.reportEnd (s := s.orphan o.id) hs.of_sys o.transaction o.part .failed) _ h

theorem State.KeepsHolders.takeExpiries (h : s₀.KeepsHolders s) : s₀.KeepsHolders s.takeExpiries :=
  foldl_keeps _ s₀.KeepsHolders _ (fun _ _ _ hs => hs.of_sys) _ (h.answerHeld _ _)

theorem State.KeepsHolders.settleAdvance (h : s₀.KeepsHolders s) : s₀.KeepsHolders s.settleAdvance := by
  have counted : s₀.KeepsHolders { s with freeCount := s.freeCount + 1 } := h.of_sys
  unfold State.settleAdvance
  dsimp only
  split
  · split
    · exact counted.takeExpiries.takeTimeouts
    · exact counted.takeTimeouts.takeExpiries
  · exact h.takeExpiries.takeTimeouts

theorem State.KeepsHolders.refclkCycle (h : s₀.KeepsHolders s) : s₀.KeepsHolders s.refclkCycle :=
  iteInduction (motive := s₀.KeepsHolders) (fun _ => h.settleAdvance.of_sys) fun _ => h.of_sys

theorem State.KeepsHolders.refclkCycles (n : Nat) (h : s₀.KeepsHolders s) : s₀.KeepsHolders (s.refclkCycles n) := by
  induction n generalizing s with
  | zero => exact h
  | succ n ih => exact ih h.refclkCycle

/-! ### Register writes -/

theorem State.KeepsHolders.takePause (h : s₀.KeepsHolders s) (r : RingNo) : s₀.KeepsHolders (s.takePause r) :=
  iteInduction (motive := s₀.KeepsHolders)
    (fun _ => ((h.setRing r _).answerHeld _ _).testDrainEnd r) fun _ => h.setRing r _

theorem State.KeepsHolders.takeHalt (h : s₀.KeepsHolders s) (r : RingNo) : s₀.KeepsHolders (s.takeHalt r) := by
  have accepted : s₀.KeepsHolders (s.setOutcome r .accepted) := h.setRing r _
  unfold State.takeHalt
  cases (s.ring r).state with
  | active | draining | paused => exact accepted.enterHalted r
  | off | halted | clearing => exact h.setRing r _

theorem State.KeepsHolders.takeClear (h : s₀.KeepsHolders s) (r : RingNo) : s₀.KeepsHolders (s.takeClear r) := by
  unfold State.takeClear
  cases (s.ring r).state with
  | active | draining | paused | halted => exact h.beginClear r
  | off | clearing => exact h.setRing r _

theorem State.KeepsHolders.takeCommand (h : s₀.KeepsHolders s) (r : RingNo) (code : BitVec 4) :
    s₀.KeepsHolders (s.takeCommand r code) := by
  unfold State.takeCommand
  split
  · exact h.of_sys
  · exact h.takePause r
  · exact h.of_sys
  · exact h.takeHalt r
  · exact h.takeClear r
  · exact h.of_sys
  · exact h.of_sys
  · exact h.of_sys

theorem State.KeepsHolders.clearForReset (h : s₀.KeepsHolders s) (r : RingNo) :
    s₀.KeepsHolders (s.clearForReset r) := by
  unfold State.clearForReset
  cases (s.ring r).state with
  | active | draining | paused | halted => exact h.beginClear r
  | off | clearing => exact h

theorem State.KeepsHolders.takeResetPart (h : s₀.KeepsHolders s) : s₀.KeepsHolders s.takeResetPart := by
  unfold State.takeResetPart
  split
  · exact h
  · exact State.KeepsHolders.testResetCompletion
      (foldl_keeps _ s₀.KeepsHolders _ (fun _ r _ hs => hs.clearForReset r) _ (h.of_sys rfl))

theorem State.KeepsHolders.writeControl (h : s₀.KeepsHolders s) (v : Word) : s₀.KeepsHolders (s.writeControl v) := by
  unfold State.writeControl
  extract_lets cleared
  have h1 : s₀.KeepsHolders cleared := iteInduction (motive := s₀.KeepsHolders) (fun _ => h.of_sys rfl) fun _ => h
  exact iteInduction (motive := s₀.KeepsHolders) (fun _ => h1.takeResetPart) fun _ => h1

theorem State.KeepsHolders.whileRunning (h : s₀.KeepsHolders s) {f : State → State} (keeps : s₀.KeepsHolders (f s)) :
    s₀.KeepsHolders (s.whileRunning f) :=
  iteInduction (motive := s₀.KeepsHolders) (fun _ => keeps) fun _ => h.of_sys rfl

theorem State.KeepsHolders.writeReg (h : s₀.KeepsHolders s) (reg : Reg) (v : Word) :
    s₀.KeepsHolders (s.writeReg reg v) := by
  unfold State.writeReg
  cases reg with
  | unmapped | identification | tickCount | occupancy | eventHead0 | eventHead1 | status | divider | memoryTimeout
    | passFault | errorFlags | lineEnables => exact h.of_sys rfl
  | eventPop => exact h.of_sys
  | control => exact h.writeControl v
  | command r => exact State.KeepsHolders.whileRunning h (h.takeCommand r _)
  | structural r g => exact State.KeepsHolders.whileRunning h h.of_sys
  | live r g => exact State.KeepsHolders.whileRunning h h.of_sys
  | fillCounter r c => exact State.KeepsHolders.whileRunning h h.of_sys
  | lateCounter r => exact State.KeepsHolders.whileRunning h h.of_sys

theorem State.KeepsHolders.completeWrite (h : s₀.KeepsHolders s) (a : BitVec 16) (reg : Reg) (v : Word) :
    s₀.KeepsHolders (s.completeWrite a reg v) :=
  iteInduction (motive := s₀.KeepsHolders) (fun _ => h.of_sys) fun _ => (h.writeReg reg v).of_sys

theorem State.KeepsHolders.outOfReset (h : s₀.KeepsHolders s) {f : State → State} (keeps : s₀.KeepsHolders (f s)) :
    s₀.KeepsHolders (s.outOfReset f) :=
  iteInduction (motive := s₀.KeepsHolders) (fun _ => h) fun _ => keeps

theorem State.KeepsHolders.addressed (h : s₀.KeepsHolders s) (target : BitVec 7) {f : State → State}
    (keeps : s₀.KeepsHolders (f s)) : s₀.KeepsHolders (s.addressed target f) :=
  iteInduction (motive := s₀.KeepsHolders) (fun _ => h.of_sys) fun _ => keeps

/-- Every command but the three that change the entries' holders: a hardware reset, an acceptance, a delivery. -/
theorem State.KeepsHolders.exec {t : State} (c : Instr) (next : exec c s = .next t)
    (reset : ∀ a1 a0, c ≠ .hardwareReset a1 a0) (acceptance : ∀ q, c ≠ .requestAcceptance q)
    (delivery : c ≠ .responseDelivery) : s.KeepsHolders t := by
  have h := State.KeepsHolders.refl s
  cases c <;> cases next
  case hardwareReset a1 a0 => exact absurd rfl (reset a1 a0)
  case requestAcceptance q => exact absurd rfl (acceptance q)
  case responseDelivery => exact absurd rfl delivery
  case heldInReset cut => exact ⟨rfl, fun _ => rfl⟩
  case writeAdmission => exact h.outOfReset (h.takeOldestAdmission .write fun r e hs own => hs.takeWrite own r e)
  case readAdmission => exact h.outOfReset (h.takeOldestAdmission .read fun r e hs own => hs.takeRead own r e)
  case reAdmission => exact h.outOfReset h.readmitHead
  case issueHead => exact h.outOfReset h.considerHead
  case memoryResponse id status data => exact h.outOfReset (h.takeResponse id status data)
  case drainEnd r => exact h.outOfReset (h.testDrainEnd r)
  case clearEnd r => exact h.outOfReset (h.testClearEnd r)
  case tick n => exact h.outOfReset (h.refclkCycles n)
  case expiry => exact h.outOfReset h.takeExpiries
  case responseTimeout => exact h.outOfReset h.takeTimeouts
  case partResetCompletion => exact h.outOfReset h.testResetCompletion
  case registerWrite target value => exact h.addressed target (h.completeWrite _ _ _)
  case registerPointerSet target address => exact h.addressed target h.of_sys
  case partialWriteEnd target stop =>
    refine h.addressed target ?_
    cases stop <;> exact h.of_sys rfl
  case registerRead target bytes => exact h.addressed target (h.of_sys rfl)
  all_goals exact h.completeWrite _ _ _

end

/-! ## The events that change the holders -/

/-- An acceptance fills a free entry and counts it; the limit of R136 keeps the count within 16 (R137). -/
theorem State.CountsAgree.acceptRequest {s : State} (agree : s.CountsAgree) (q : Request) :
    (s.acceptRequest q).CountsAgree := by
  unfold State.acceptRequest
  split
  swap
  · exact agree
  split
  swap
  · exact agree
  rename_i accepts _ u lowest
  obtain ⟨-, below, -⟩ := (s.accepts_iff q.master).mp accepts
  obtain ⟨⟨x, entry, master, -⟩, others, counts, -⟩ := s.acceptInto_facts q u
  have free : s.masterOf u = none := by simp [State.masterOf, s.freeTxn_spec lowest]
  have filled : (s.acceptInto u q).masterOf u = some q.master := master ▸ State.masterOf_of_txn entry
  have held := State.card_heldBy_of_filled free filled fun w ne => by simp only [State.masterOf, others w ne]
  rw [State.countsAgree_iff] at agree ⊢
  intro m
  obtain ⟨count, bound⟩ := agree m
  rw [held m, counts m]
  split
  · rename_i own
    subst own
    omega
  · omega

/-- A delivery frees an entry and counts it off (R147). -/
theorem State.CountsAgree.deliverHead {s : State} (agree : s.CountsAgree) : s.deliverHead.CountsAgree := by
  cases ready : s.sys.readyOrder with
  | nil => rwa [State.deliverHead, ready]
  | cons u rest =>
    cases txn : s.txn u with
    | none => simpa only [State.deliverHead, ready, txn] using agree
    | some x =>
      rw [s.deliverHead_eq ready txn]
      refine State.CountsAgree.of_keepsHolders ?_ (State.KeepsHolders.refl _).testResetCompletion
      have free : (s.delivered u rest x).masterOf u = none := by simp [State.masterOf, State.txn_delivered]
      have held := State.card_heldBy_of_filled free (State.masterOf_of_txn txn) fun w ne => by
        simp only [State.masterOf, State.txn_delivered, if_neg ne]
      rw [State.countsAgree_iff] at agree ⊢
      intro m
      obtain ⟨count, bound⟩ := agree m
      have less := held m
      rw [State.undelivered_delivered]
      split at less <;> rename_i own
      · rw [if_pos own]
        omega
      · rw [if_neg own]
        omega

/-- Every command keeps each count the number of its master's entries. -/
theorem State.CountsAgree.exec {s t : State} (agree : s.CountsAgree) (c : Instr) (next : exec c s = .next t) :
    t.CountsAgree := by
  have outOfReset {f : State → State} (keeps : (f s).CountsAgree) : (s.outOfReset f).CountsAgree :=
    iteInduction (motive := State.CountsAgree) (fun _ => agree) fun _ => keeps
  by_cases reset : ∃ a1 a0, c = .hardwareReset a1 a0
  · obtain ⟨a1, a0, rfl⟩ := reset
    cases next
    exact State.reset_countsAgree.of_keepsHolders ⟨rfl, fun _ => rfl⟩
  by_cases acceptance : ∃ q, c = .requestAcceptance q
  · obtain ⟨q, rfl⟩ := acceptance
    cases next
    exact outOfReset (agree.acceptRequest q)
  by_cases delivery : c = .responseDelivery
  · subst delivery
    cases next
    exact outOfReset agree.deliverHead
  exact agree.of_keepsHolders (State.KeepsHolders.exec c next (fun a1 a0 is => reset ⟨a1, a0, is⟩)
    (fun q is => acceptance ⟨q, is⟩) delivery)

/-- Settles O59: a step executes the front command with the rest of the queue, and every command keeps each count the
number of its master's entries (`State.CountsAgree.exec`). -/
theorem undeliveredCountsAgree : Obligations.UndeliveredCountsAgree := by
  intro s t agree next
  unfold Machine.step at next
  split at next
  · cases next
    exact agree
  · rename_i c rest _
    have dequeued : State.CountsAgree { s with pending := rest } := agree
    exact dequeued.exec c next

end Sys2Proof.Machine
end

section
/-! The end of a pass-through request (O33). -/

namespace Sys2Proof.Machine

section
variable {s : State} {o : Outstanding} {x : Txn} {id : BitVec 6} {status : MemoryStatus} {data : List Byte}

/-- A response to the one operation of a pass-through request, in RUNNING: the request ends (R143, R160). -/
theorem exec_memoryResponse_passThrough (h0 : s.inReset = false) (running : s.part = .running)
    (distinct : (s.mem.outstanding.map Outstanding.id).Nodup) (member : o ∈ s.mem.outstanding)
    (names : o.id.val = id.toNat) (live : o.condition = .live) (txn : s.txn o.transaction = some x)
    (pass : x.ring = none) (length : o.direction = .read → status = .ok → data.length = o.length) {y : Txn}
    (ended : x.endPart o.part (o.endBy status data) = y) (last : y.outstanding = 0) :
    exec (.memoryResponse id status data) s = .next ((s.recordEnd o y).endPassThrough o.transaction y) := by
  simp only [exec, execMemoryResponse, State.outOfReset_of h0]
  rw [s.takeResponse_live distinct member names live length,
    State.reportEnd_passThrough _ ((s.txn_freeOperation _ _).trans txn) pass, ended, if_pos last,
    State.testResetCompletion_of_running]
  · rfl
  · rw [State.endPassThrough_part]
    exact running

end

/-- The entry of a pass-through request after its one part ended by a response (R143). -/
def Txn.passEnded (x : Txn) (p : Part) (status : MemoryStatus) (returned : List Byte) : Txn :=
  { x with
    parts := [{ p with result := if status = .ok then .ok else .failed, data := returned }]
    outstanding := 0 }

/-- One part's end is the request's: it ended OK when the part did, with the part's data (R13). -/
theorem Txn.passEnded_allOk (x : Txn) (p : Part) (status : MemoryStatus) (returned : List Byte) :
    (x.passEnded p status returned).allOk = decide (status = .ok) := by
  cases status <;> rfl

theorem Txn.passEnded_joined (x : Txn) (p : Part) (status : MemoryStatus) (returned : List Byte) :
    (x.passEnded p status returned).joined = returned := List.append_nil returned

theorem Txn.endPart_passEnded {o : Outstanding} {x : Txn} {p : Part} (first : o.part = .first) (one : x.outstanding = 1)
    (parts : x.parts = [p]) (status : MemoryStatus) (data : List Byte) :
    x.endPart o.part (o.endBy status data)
      = x.passEnded p status (if status = .ok ∧ o.direction = .read then data else []) := by
  simp only [Txn.endPart, Txn.passEnded, Part.ended_endBy, first, one, parts]
  rfl

/-- An offer changes the event queue alone (R127). -/
theorem State.offer_eq (s : State) (k : EventKind) (o : Option RingNo) (line : BitVec 2) (p : Option Nat)
    (c : EventCount) : s.offer k o line p c = { s with events := (s.offer k o line p c).events } :=
  State.eq_of_fields (State.offer_inReset ..) (State.offer_part ..) (State.offer_mgmt ..) (State.offer_time ..)
    (State.offer_rings ..) (State.offer_awaiting ..) (State.offer_pool ..) (State.offer_sys ..) (State.offer_mem ..) rfl
    (State.offer_freeCount ..) (State.offer_pending ..)

theorem State.offer_when (s : State) (c : Prop) [Decidable c] (k : EventKind) (line : BitVec 2) (count : EventCount) :
    (if c then s.offer k none line none count else s) = { s with
      events := if c then (s.offer k none line none count).events else s.events } := by
  split
  · exact s.offer_eq _ _ _ _ _
  · rfl

/-- The end of a pass-through request by response: its answer, and the record that a failure offers (R119, R143). -/
theorem State.endPassThrough_passEnded (s : State) (u : TxnNo) (x : Txn) (p : Part) {status : MemoryStatus}
    {returned : List Byte} (failed : status = .error → returned = []) :
    s.endPassThrough u (x.passEnded p status returned) =
      if status = .error ∧ s.mgmt.passFaultEnable = true then
        (s.answer u (if status = .ok then .done else .fault) returned).offer .passFault none s.mgmt.passFaultLine none
          (.source x.master x.tag)
      else s.answer u (if status = .ok then .done else .fault) returned := by
  unfold State.endPassThrough
  rw [Txn.passEnded_allOk, Txn.passEnded_joined]
  cases status with
  | ok => simp
  | error =>
    simp only [failed rfl, State.answer_mgmt, reduceCtorEq, decide_false, Bool.false_eq_true, if_false, true_and]
    rfl

/-- Settles O33: the report of the one end is the answer and, for a failure, the offer
(`State.endPassThrough_passEnded`). -/
theorem passThroughEndAnswers : Obligations.PassThroughEndAnswers := by
  intro s o x p id status data h0 running distinct member names live first txn pass one parts length returned
  have failed : status = .error → returned = [] := by
    rintro rfl
    rfl
  have ended := exec_memoryResponse_passThrough h0 running distinct member names live txn pass length
    (Txn.endPart_passEnded first one parts status data) rfl
  rw [State.endPassThrough_passEnded _ _ x p failed, State.answer_recordEnd, State.offer_when] at ended
  refine ⟨_, ended, rfl, State.txn_setTxn_self s o.transaction _, rfl, rfl, ?_⟩
  refine if_congr Iff.rfl ?_ rfl
  exact State.offer_events_congr (by rfl) (by rfl) _ _ _ _ _

end Sys2Proof.Machine
end

section
/-! Every command ends in a next state and leaves the waiting commands as they are (O2). -/

namespace Sys2Proof.Machine

section
variable (s : State) {f : State → State}

theorem State.outOfReset_pending (keeps : (f s).pending = s.pending) : (s.outOfReset f).pending = s.pending := by
  unfold State.outOfReset
  split
  · rfl
  · exact keeps

theorem State.addressed_pending (target : BitVec 7) (keeps : (f s).pending = s.pending) :
    (s.addressed target f).pending = s.pending := by
  unfold State.addressed
  split
  · exact State.ignoreBus_pending s
  · exact keeps

/-- Taking an admission leaves the waiting commands as they are when the admission's checks do. -/
theorem State.takeOldestAdmission_pending (direction : Direction) {take : State → TxnNo → Txn → RingNo → Extent → State}
    (keeps : ∀ s u x r e, (take s u x r e).pending = s.pending) :
    (s.takeOldestAdmission direction take).pending = s.pending := by
  unfold State.takeOldestAdmission
  split
  · rfl
  split
  · rfl
  split
  · split
    · exact keeps ..
    · rfl
  · rfl

end

/-- Settles O2: every arm of `exec` answers a next state, an event of the part, an access on the bus or a register's
write, and none of them touches the queue of commands. -/
theorem everyCommandReachesNextState : Obligations.EveryCommandReachesNextState := by
  intro c s
  cases c <;> refine ⟨_, rfl, ?_⟩
  case hardwareReset | heldInReset => rfl
  case requestAcceptance q => exact s.outOfReset_pending (State.acceptRequest_pending ..)
  case writeAdmission =>
    exact s.outOfReset_pending (s.takeOldestAdmission_pending .write State.takeWrite_pending)
  case readAdmission => exact s.outOfReset_pending (s.takeOldestAdmission_pending .read State.takeRead_pending)
  case reAdmission => exact s.outOfReset_pending (State.readmitHead_pending s)
  case issueHead => exact s.outOfReset_pending (State.considerHead_pending s)
  case memoryResponse id status data => exact s.outOfReset_pending (State.takeResponse_pending ..)
  case drainEnd r => exact s.outOfReset_pending (State.testDrainEnd_pending s r)
  case clearEnd r => exact s.outOfReset_pending (State.testClearEnd_pending s r)
  case tick n => exact s.outOfReset_pending (State.refclkCycles_pending s n)
  case expiry => exact s.outOfReset_pending (State.takeExpiries_pending s)
  case responseTimeout => exact s.outOfReset_pending (State.takeTimeouts_pending s)
  case responseDelivery => exact s.outOfReset_pending (State.deliverHead_pending s)
  case partResetCompletion => exact s.outOfReset_pending (State.testResetCompletion_pending s)
  case registerWrite target value => exact s.addressed_pending target (State.completeWrite_pending ..)
  case registerPointerSet target address => exact s.addressed_pending target rfl
  case partialWriteEnd target stop =>
    refine s.addressed_pending target ?_
    cases stop <;> rfl
  case registerRead target bytes => exact s.addressed_pending target rfl
  all_goals exact State.writeAt_pending s _ _

end Sys2Proof.Machine
end

section
/-! The memory port stays safe: every event keeps the ids in use distinct, overlapping writes apart, and the issue queue
within its 16 entries, reservations counted (O56). -/

namespace Sys2Proof.Machine

/-! ## The outstanding operations -/

/-- An operation as its timeout leaves it: its id in use, the overlap check blind to it (R158). -/
def Outstanding.orphaned (o : Outstanding) : Outstanding := { o with condition := .orphan }

/-- Operations that become orphans keep their ids in use (R158). -/
theorem map_id_orphaned (l : List Outstanding) (expired : Outstanding → Prop) [DecidablePred expired] :
    (l.map fun o => if expired o then o.orphaned else o).map Outstanding.id = l.map Outstanding.id := by
  rw [List.map_map]
  refine List.map_congr_left fun o _ => ?_
  simp only [Function.comp_apply]
  split <;> rfl

section
variable {p p' : MemoryPort}

/-- Operations that stop being outstanding leave the others safe (R157, R159). -/
theorem MemoryPort.Safe.of_sublist (h : p.Safe) (fewer : p'.outstanding.Sublist p.outstanding) : p'.Safe where
  distinctIds := h.distinctIds.sublist (fewer.map _)
  apart := h.apart.sublist fewer

theorem MemoryPort.Safe.of_outstanding (h : p.Safe) (same : p'.outstanding = p.outstanding) : p'.Safe :=
  h.of_sublist (same ▸ List.Sublist.refl _)

/-- Operations that become orphans keep their ids and are no longer in the way of any other (R158). -/
theorem MemoryPort.Safe.of_orphans (h : p.Safe) (expired : Outstanding → Prop) [DecidablePred expired]
    (orphans : p'.outstanding = p.outstanding.map fun o => if expired o then o.orphaned else o) : p'.Safe where
  distinctIds := by
    rw [orphans, map_id_orphaned]
    exact h.distinctIds
  apart := by
    rw [orphans]
    refine List.Pairwise.map _ (fun a b apart => ?_) h.apart
    split
    · exact nofun
    split
    · exact fun _ => nofun
    · exact apart

/-- An operation under a free id that overlaps no live one, or only as a read beside reads, joins safely (R154,
R156). -/
theorem MemoryPort.Safe.push (h : p.Safe) {o : Outstanding} (free : ∀ q ∈ p.outstanding, q.id ≠ o.id)
    (clear : ∀ q ∈ p.outstanding, q.Apart o) (joins : p'.outstanding = p.outstanding ++ [o]) : p'.Safe where
  distinctIds := by
    rw [joins, List.map_append, List.nodup_append]
    refine ⟨h.distinctIds, List.nodup_singleton _, fun i used j new same => ?_⟩
    obtain ⟨q, member, rfl⟩ := List.mem_map.mp used
    obtain rfl := List.mem_singleton.mp new
    exact free q member same
  apart := by
    rw [joins, List.pairwise_append]
    refine ⟨h.apart, List.pairwise_singleton _ _, fun q member n new => ?_⟩
    obtain rfl := List.mem_singleton.mp new
    exact clear q member

end

/-- The overlap check of the head against one operation in use (R154, R155). -/
theorem Operation.conflicts_iff (op : Operation) (o : Outstanding) :
    op.conflicts o = true ↔ o.condition = .live ∧ RangesMeet op.address op.length o.address o.length
      ∧ (op.direction = .write ∨ o.direction = .write) := by
  simp only [Operation.conflicts, Bool.and_eq_true, Bool.or_eq_true, decide_eq_true_eq]
  tauto

/-- An operation that the head does not conflict with is apart from the head's record (R154, R155). -/
theorem Operation.apart_issueRecord (s : State) {op : Operation} {o : Outstanding} (clear : ¬ op.conflicts o = true)
    (id : OpId) : o.Apart (s.issueRecord op id) := by
  rw [Operation.conflicts_iff] at clear
  exact fun live _ writes meet => clear ⟨live, rangesMeet_symm meet, writes.symm⟩

/-! ## What an event keeps -/

/-- The operations in use safe and the issue queue not over-filled (R152, R154). -/
structure State.PortFits (s : State) : Prop where
  port : s.mem.Safe
  queue : s.QueueFits

/-- No operation is issued or ends, and at most two operations join the issue queue (R12). -/
structure MemoryPort.QueuesParts (p p' : MemoryPort) : Prop where
  outstanding : p'.outstanding = p.outstanding
  queue : p'.queue.length ≤ p.queue.length + 2

section
variable {s s' : State} {p p' : MemoryPort}

theorem State.queueFits_iff : s.QueueFits ↔ s.mem.queue.length + 2 * s.awaiting.length ≤ 16 := Iff.rfl

/-- A change that leaves the memory port and the admissions not yet taken alone. -/
theorem State.PortFits.of_fields (h : s.PortFits) (mem : s'.mem = s.mem := by simp)
    (awaiting : s'.awaiting = s.awaiting := by simp) : s'.PortFits where
  port := mem ▸ h.port
  queue := by
    rw [State.queueFits_iff, mem, awaiting]
    exact h.queue

/-- A change of the operations in use alone. -/
theorem State.PortFits.of_port (h : s.PortFits) (port : s'.mem.Safe) (queue : s'.mem.queue = s.mem.queue := by simp)
    (awaiting : s'.awaiting = s.awaiting := by simp) : s'.PortFits where
  port := port
  queue := by
    rw [State.queueFits_iff, queue, awaiting]
    exact h.queue

/-- A request's parts join an issue queue that has room for two (R137, R152). -/
theorem State.PortFits.of_queuesParts (h : s.mem.Safe) (parts : s.mem.QueuesParts s'.mem)
    (room : s.mem.queue.length + 2 * s'.awaiting.length + 2 ≤ 16) : s'.PortFits where
  port := h.of_outstanding parts.outstanding
  queue := by
    rw [State.queueFits_iff]
    have := parts.queue
    omega

theorem MemoryPort.QueuesParts.of_eq (same : p' = p) : p.QueuesParts p' :=
  ⟨congrArg _ same, same ▸ Nat.le_add_right _ _⟩

theorem State.queuesParts_enqueueParts (s : State) (u : TxnNo) (x : Txn) (c : OpClass) :
    s.mem.QueuesParts (s.enqueueParts u x c).mem where
  outstanding := s.enqueueParts_outstanding u x c
  queue := by
    rw [State.enqueueParts_queue, List.length_append]
    exact Nat.add_le_add_left (partOperations_length u x c) _

/-- A request's parts are queued behind a change that leaves the memory port alone. -/
theorem State.queuesParts_enqueueParts_of_mem (mem : s'.mem = s.mem) (u : TxnNo) (x : Txn) (c : OpClass) :
    s.mem.QueuesParts (s'.enqueueParts u x c).mem :=
  mem ▸ s'.queuesParts_enqueueParts u x c

/-! ## Admissions -/

theorem State.queuesParts_takeWrite (s : State) (u : TxnNo) (x : Txn) (r : RingNo) (e : Extent) :
    s.mem.QueuesParts (s.takeWrite u x r e).mem := by
  unfold State.takeWrite
  split
  · exact .of_eq (by simp)
  split
  · exact .of_eq (by simp)
  · exact .of_eq (by simp)
  · exact .of_eq (by simp)
  · exact .of_eq (by simp)
  · unfold State.admitWrite
    dsimp only
    split
    · exact State.queuesParts_enqueueParts_of_mem (by simp) u x .ring
    · exact State.queuesParts_enqueueParts_of_mem (by simp) u x .ring

theorem State.queuesParts_readOutcome (s : State) (u : TxnNo) (x : Txn) (r : RingNo) (part : Option Extent)
    (outcome : ReadOutcome) : s.mem.QueuesParts (s.readOutcome u x r part outcome).mem := by
  cases outcome with
  | answer status => exact .of_eq (State.answer_mem ..)
  | hold => exact .of_eq (State.askHold_mem ..)
  | poisoned => exact .of_eq (State.poisonedRead_mem ..)
  | admitted => exact State.queuesParts_enqueueParts_of_mem (State.setRing_mem ..) u x .ring

theorem State.queuesParts_takeRead (s : State) (u : TxnNo) (x : Txn) (r : RingNo) (e : Extent) :
    s.mem.QueuesParts (s.takeRead u x r e).mem := by
  rw [State.takeRead_eq]
  split
  · exact .of_eq (State.answer_mem ..)
  · exact State.queuesParts_readOutcome (s.setTxn u _) u _ r _ _

/-- The oldest admission gives its two reserved entries to its operations (R137). -/
theorem State.PortFits.takeOldestAdmission (h : s.PortFits) (direction : Direction)
    {take : State → TxnNo → Txn → RingNo → Extent → State}
    (parts : ∀ (s : State) u x r e, s.mem.QueuesParts (take s u x r e).mem)
    (awaiting : ∀ (s : State) u x r e, (take s u x r e).awaiting = s.awaiting) :
    (s.takeOldestAdmission direction take).PortFits := by
  unfold State.takeOldestAdmission
  split
  · exact h
  rename_i u rest waiting
  split
  · exact h
  split
  · split
    · have reserved := h.queue
      rw [State.queueFits_iff, waiting, List.length_cons] at reserved
      refine State.PortFits.of_queuesParts h.port (parts { s with awaiting := rest } u _ _ _) ?_
      rw [awaiting]
      dsimp only
      omega
    · exact h
  · exact h

theorem State.queuesParts_admitHeld (s : State) (g : HoldEntry) : s.mem.QueuesParts (s.admitHeld g).mem := by
  unfold State.admitHeld
  split
  · exact .of_eq rfl
  split
  · exact .of_eq rfl
  split
  · exact s.queuesParts_takeWrite _ _ _ _
  · exact s.queuesParts_takeRead _ _ _ _

/-- A re-admission waits for two free entries (R98). -/
theorem State.PortFits.readmitHead (h : s.PortFits) : s.readmitHead.PortFits := by
  unfold State.readmitHead
  split
  · rename_i room
    split
    · exact h
    split
    · exact h
    · rename_i g _
      refine State.PortFits.of_queuesParts h.port
        (State.queuesParts_admitHeld { s with pool := s.pool.remove [g] } g) ?_
      rw [State.admitHeld_awaiting]
      exact s.two_le_freeEntries_iff.mp room
  · exact h

/-! ## The ports and the timebase -/

/-- A classification queues a pass-through request's one operation or reserves two entries for a ring request (R137,
R142). -/
theorem State.decodeRequest_load (s : State) (u : TxnNo) (x : Txn) :
    (s.decodeRequest u x).mem.queue.length + 2 * (s.decodeRequest u x).awaiting.length
      ≤ s.mem.queue.length + 2 * s.awaiting.length + 2 := by
  unfold State.decodeRequest
  split
  · simp
  · simp
  · simp only [State.setTxn_mem, State.setTxn_awaiting, List.length_append, List.length_singleton]
    omega
  · rw [State.enqueueParts_awaiting]
    have := (s.queuesParts_enqueueParts u { x with
      cls := some .pass
      parts := [{ memAddress := x.address.toNat, length := x.length, range := none,
                  result := .pending, data := [] }] } .passThrough).queue
    omega

/-- An acceptance waits for two free entries of the issue queue (R136). -/
theorem State.PortFits.acceptRequest (h : s.PortFits) (q : Request) : (s.acceptRequest q).PortFits := by
  unfold State.acceptRequest
  split
  swap
  · exact h
  split
  swap
  · exact h
  rename_i accepts _ u _
  obtain ⟨-, -, room, -⟩ := (s.accepts_iff q.master).mp accepts
  obtain ⟨b, accepted, -, -, -, -, -, -, -, -, -, awaiting, -, mem, -⟩ := s.acceptInto_base q u
  rw [accepted]
  split
  · exact h.of_fields ((State.answer_mem ..).trans mem) ((State.answer_awaiting ..).trans awaiting)
  · obtain ⟨-, -, -, -, outstanding, -⟩ := b.decodeRequest_facts u (acceptedTxn q (s.requestData q))
    have load := b.decodeRequest_load u (acceptedTxn q (s.requestData q))
    rw [mem, awaiting] at load
    refine ⟨h.port.of_outstanding (outstanding.trans (congrArg _ mem)), ?_⟩
    rw [State.queueFits_iff]
    omega

/-- The head leaves the queue, refused or issued under a free id beside operations it does not conflict with (R154 to
R156). -/
theorem State.PortFits.considerHead (h : s.PortFits) : s.considerHead.PortFits := by
  unfold State.considerHead
  split
  · exact h
  rename_i op rest queue
  have shorter := h.queue
  rw [State.queueFits_iff, queue, List.length_cons] at shorter
  split
  · have dequeued : State.PortFits { s with mem := { s.mem with queue := rest } } :=
      ⟨h.port.of_outstanding rfl, by rw [State.queueFits_iff]; dsimp only; omega⟩
    exact dequeued.of_fields
  split
  · exact h
  rename_i id free
  split
  · exact h
  · rename_i clear
    rw [List.any_eq_true, not_exists] at clear
    refine ⟨h.port.push (MemoryPort.freeId_spec free) (fun o member => ?_) (s.issue_outstanding op rest id), ?_⟩
    · exact Operation.apart_issueRecord s (fun conflicts => clear o ⟨member, conflicts⟩) id
    · rw [State.queueFits_iff, State.issue_queue, State.issue_awaiting]
      omega

theorem State.PortFits.freeOperation (h : s.PortFits) (id : OpId) : (s.freeOperation id).PortFits :=
  h.of_port (h.port.of_sublist List.filter_sublist)

theorem State.PortFits.orphan (h : s.PortFits) (id : OpId) : (s.orphan id).PortFits :=
  h.of_port (h.port.of_orphans (fun o => o.id = id) rfl)

theorem State.PortFits.reportEnd (h : s.PortFits) (u : TxnNo) (p : PartNo) (e : OpEnd) : (s.reportEnd u p e).PortFits :=
  h.of_fields

theorem State.PortFits.takeResponse (h : s.PortFits) (id : BitVec 6) (status : MemoryStatus) (data : List Byte) :
    (s.takeResponse id status data).PortFits := by
  have counted (n : Nat) : (s.countMissing n data).PortFits := h.of_fields
  unfold State.takeResponse
  split
  · exact h
  split
  · exact h.freeOperation _
  split
  · exact ((counted _).freeOperation _).reportEnd _ _ _
  · exact (h.freeOperation _).reportEnd _ _ _
  · exact (h.freeOperation _).reportEnd _ _ _

theorem State.PortFits.takeTimeouts (h : s.PortFits) : s.takeTimeouts.PortFits :=
  foldl_keeps _ State.PortFits _ (fun _ o _ hs => (hs.orphan o.id).reportEnd o.transaction o.part .failed) _ h

theorem State.PortFits.takeExpiries (h : s.PortFits) : s.takeExpiries.PortFits := h.of_fields

theorem State.PortFits.settleAdvance (h : s.PortFits) : s.settleAdvance.PortFits := by
  have counted : State.PortFits { s with freeCount := s.freeCount + 1 } := h.of_fields rfl rfl
  unfold State.settleAdvance
  dsimp only
  split
  · split
    · exact counted.takeExpiries.takeTimeouts
    · exact counted.takeTimeouts.takeExpiries
  · exact h.takeExpiries.takeTimeouts

theorem State.PortFits.refclkCycle (h : s.PortFits) : s.refclkCycle.PortFits :=
  iteInduction (motive := State.PortFits) (fun _ => h.settleAdvance.of_fields) fun _ => h.of_fields rfl rfl

theorem State.PortFits.refclkCycles (n : Nat) (h : s.PortFits) : (s.refclkCycles n).PortFits := by
  induction n generalizing s with
  | zero => exact h
  | succ n ih => exact ih h.refclkCycle

/-! ## Every command -/

theorem State.PortFits.outOfReset (h : s.PortFits) {f : State → State} (keeps : (f s).PortFits) :
    (s.outOfReset f).PortFits :=
  iteInduction (motive := State.PortFits) (fun _ => h) fun _ => keeps

theorem State.PortFits.addressed (h : s.PortFits) (target : BitVec 7) {f : State → State} (keeps : (f s).PortFits) :
    (s.addressed target f).PortFits :=
  iteInduction (motive := State.PortFits) (fun _ => h.of_fields) fun _ => keeps

theorem State.PortFits.completeWrite (h : s.PortFits) (a : BitVec 16) (reg : Reg) (v : Word) :
    (s.completeWrite a reg v).PortFits :=
  h.of_fields

/-- Every command keeps the memory port safe and its issue queue within its entries. -/
theorem State.PortFits.exec {t : State} (h : s.PortFits) (c : Instr) (next : exec c s = .next t) : t.PortFits := by
  cases c <;> cases next
  case hardwareReset a1 a0 => exact ⟨State.reset_memoryPort.1, State.reset_memoryPort.2⟩
  case heldInReset cut => exact ⟨h.port.of_outstanding rfl, h.queue⟩
  case requestAcceptance q => exact h.outOfReset (h.acceptRequest q)
  case writeAdmission =>
    exact h.outOfReset (h.takeOldestAdmission .write State.queuesParts_takeWrite State.takeWrite_awaiting)
  case readAdmission =>
    exact h.outOfReset (h.takeOldestAdmission .read State.queuesParts_takeRead State.takeRead_awaiting)
  case reAdmission => exact h.outOfReset h.readmitHead
  case issueHead => exact h.outOfReset h.considerHead
  case memoryResponse id status data => exact h.outOfReset (h.takeResponse id status data)
  case drainEnd r => exact h.outOfReset h.of_fields
  case clearEnd r => exact h.outOfReset h.of_fields
  case tick n => exact h.outOfReset (h.refclkCycles n)
  case expiry => exact h.outOfReset h.takeExpiries
  case responseTimeout => exact h.outOfReset h.takeTimeouts
  case responseDelivery => exact h.outOfReset h.of_fields
  case partResetCompletion => exact h.outOfReset h.of_fields
  case registerWrite target value => exact h.addressed target (h.completeWrite _ _ _)
  case registerPointerSet target address => exact h.addressed target h.of_fields
  case partialWriteEnd target stop =>
    refine h.addressed target ?_
    cases stop <;> exact h.of_fields rfl rfl
  case registerRead target bytes => exact h.addressed target (h.of_fields rfl rfl)
  all_goals exact h.completeWrite _ _ _

end

/-- Settles O56: a step executes the front command with the rest of the queue, and every command keeps the memory port
safe and its issue queue within its entries (`State.PortFits.exec`). -/
theorem memoryPortStaysSafe : Obligations.MemoryPortStaysSafe := by
  intro s t ⟨port, queue⟩ next
  have fits : s.PortFits := ⟨port, queue⟩
  have kept : t.PortFits := by
    unfold Machine.step at next
    split at next
    · cases next
      exact fits
    · rename_i c rest _
      have dequeued : State.PortFits { s with pending := rest } := fits.of_fields
      exact dequeued.exec c next
  exact ⟨kept.port, kept.queue⟩

end Sys2Proof.Machine
end

section
/-! The head of the issue queue (O27) and a memory response matched by its id (O28). -/

namespace Sys2Proof.Machine

/-! ## The head of the issue queue -/

/-- With every id in use the head finds none (R154). -/
theorem MemoryPort.freeId_of_used {p : MemoryPort} (used : ∀ i, ∃ o ∈ p.outstanding, o.id = i) : p.freeId = none := by
  unfold MemoryPort.freeId
  rw [List.find?_eq_none]
  intro i _
  simpa using used i

section
variable {s : State} {op : Operation} {rest : List Operation}

/-- A pass-through head that the memory guard meets is refused (R7, R154). -/
theorem State.considerHead_refused (queue : s.mem.queue = op :: rest) (pass : op.cls = .passThrough)
    (guarded : s.guarded op.address op.length = true) :
    s.considerHead = (State.answer { s with mem := { s.mem with queue := rest } }
      op.transaction .refused).testResetCompletion := by
  simp only [State.considerHead, queue, pass, guarded, and_self, if_true]

/-- A head that is not refused waits while no id is free or the overlap check finds an operation (R154). -/
theorem State.considerHead_waits (queue : s.mem.queue = op :: rest)
    (unguarded : ¬ (op.cls = .passThrough ∧ s.guarded op.address op.length = true))
    (waits : s.mem.freeId = none ∨ ∃ o ∈ s.mem.outstanding, op.conflicts o = true) : s.considerHead = s := by
  simp only [State.considerHead, queue, if_neg unguarded]
  split
  · rfl
  · rename_i id free
    rw [free] at waits
    exact if_pos (List.any_eq_true.mpr (waits.resolve_left nofun))

/-- A head that is neither refused nor waits is issued (R154, R156). -/
theorem State.considerHead_issues (queue : s.mem.queue = op :: rest)
    (unguarded : ¬ (op.cls = .passThrough ∧ s.guarded op.address op.length = true)) {id : OpId}
    (free : s.mem.freeId = some id) (clear : ¬ ∃ o ∈ s.mem.outstanding, op.conflicts o = true) :
    s.considerHead = s.issue op rest id := by
  simp only [State.considerHead, queue, if_neg unguarded, free]
  exact if_neg fun conflicts => clear (List.any_eq_true.mp conflicts)

end

section
variable (s : State) (op : Operation) (rest : List Operation) (id : OpId)

/-- The memory port after an issue: the record joins under its id, and the operation goes out on the link (R156). -/
theorem State.issue_mem : (s.issue op rest id).mem = {
    queue := rest
    outstanding := s.mem.outstanding ++ [s.issueRecord op id]
    link := some { id := id, direction := op.direction, address := op.address, length := op.length
                   data := op.data } } := by
  unfold State.issue
  dsimp only
  (repeat' split) <;> rfl

theorem State.issue_undelivered : (s.issue op rest id).sys.undelivered = s.sys.undelivered := by
  unfold State.issue
  dsimp only
  (repeat' split) <;> rfl

/-- An issue leaves the system port alone when its request is no longer QUEUED (R141). -/
theorem State.issue_sys_of_not_queued (issued : ∀ x, s.txn op.transaction = some x → x.stage ≠ .queued) :
    (s.issue op rest id).sys = s.sys := by
  unfold State.issue
  dsimp only
  split
  · rename_i x txn
    rw [if_neg (issued x txn)]
  · rfl

/-- An issue changes the memory port and the system port alone. -/
theorem State.issue_eq : s.issue op rest id
    = { s with mem := (s.issue op rest id).mem, sys := (s.issue op rest id).sys } :=
  State.eq_of_fields (State.issue_inReset ..) (State.issue_part ..) (State.issue_mgmt ..) (State.issue_time ..)
    (State.issue_rings ..) (State.issue_awaiting ..) (State.issue_pool ..) rfl rfl (State.issue_events ..)
    (State.issue_freeCount ..) (State.issue_pending ..)

end

/-- Settles O27: ISSUE_HEAD out of reset is the consideration of the head, whose three ends are
`State.considerHead_refused`, `State.considerHead_waits` and `State.considerHead_issues`. -/
theorem issueConsidersTheHead : Obligations.IssueConsidersTheHead := by
  refine ⟨fun s empty => ?_, fun s op rest h0 queue => ?_⟩
  · have idle : s.considerHead = s := by simp only [State.considerHead, empty]
    simp only [exec, execIssueHead, State.outOfReset, idle, ite_self]
  intro used guard blocked
  have considered : exec .issueHead s = .next s.considerHead := congrArg _ (State.outOfReset_of h0 _)
  have guard_iff : s.guarded op.address op.length = true ↔ guard := s.guarded_iff op.address op.length
  have blocked_iff : (∃ o ∈ s.mem.outstanding, op.conflicts o = true) ↔ blocked := by
    simp only [Operation.conflicts_iff, blocked]
  rw [considered]
  refine ⟨fun pass guarded => ?_, fun admitted => ?_⟩
  · rw [State.considerHead_refused queue pass (guard_iff.mpr guarded)]
  rw [← guard_iff] at admitted
  refine ⟨fun all => ?_, fun meets => ?_, fun i free low clear => ?_⟩
  · rw [State.considerHead_waits queue admitted (Or.inl (MemoryPort.freeId_of_used all))]
  · rw [State.considerHead_waits queue admitted (Or.inr (blocked_iff.mpr meets))]
  have lowest : s.mem.freeId = some i :=
    MemoryPort.freeId_of_lowest (fun o member same => free ⟨o, member, same⟩) low
  rw [State.considerHead_issues queue admitted lowest (mt blocked_iff.mp clear)]
  refine ⟨_, rfl, s.issue_eq op rest i, s.issue_mem op rest i, fun x txn queued => ?_,
    s.issue_sys_of_not_queued op rest i, fun u other => ?_, s.issue_readyOrder op rest i,
    s.issue_undelivered op rest i⟩
  · rw [State.txn_issue, if_pos rfl, txn, Option.map_some, Txn.issued, if_pos queued]
  · rw [State.txn_issue, if_neg other]

/-! ## A memory response -/

/-- A response to an operation in use frees its id and changes nothing else in the memory port, whatever it carries
(R157, R159). -/
theorem State.takeResponse_mem (s : State) {o : Outstanding} {id : BitVec 6} (status : MemoryStatus) (data : List Byte)
    (distinct : (s.mem.outstanding.map Outstanding.id).Nodup) (member : o ∈ s.mem.outstanding)
    (names : o.id.val = id.toNat) :
    (s.takeResponse id status data).mem
      = { s.mem with outstanding := s.mem.outstanding.filter fun p => p.id ≠ o.id } := by
  have freed (t : State) (same : t.mem = s.mem) : (t.freeOperation o.id).mem
      = { s.mem with outstanding := s.mem.outstanding.filter fun p => p.id ≠ o.id } := by
    rw [← same]
    rfl
  unfold State.takeResponse
  rw [find_outstanding distinct member names]
  dsimp only
  split
  · exact freed s rfl
  split <;> rw [State.reportEnd_mem]
  · exact freed _ (State.countMissing_mem ..)
  · exact freed s rfl
  · exact freed s rfl

/-- Settles O28: the three operations that an id can name, none, an orphan, a live one. -/
theorem memoryResponseMatchesById : Obligations.MemoryResponseMatchesById := by
  intro s id status data h0 distinct
  have response : exec (.memoryResponse id status data) s = .next (s.takeResponse id status data) :=
    congrArg _ (State.outOfReset_of h0 _)
  rw [response]
  refine ⟨fun unused => ?_, fun o member names => ?_⟩
  · rw [s.takeResponse_unused status data unused]
  · refine ⟨_, rfl, s.takeResponse_mem status data distinct member names, fun orphan => ?_⟩
    rw [s.takeResponse_orphan status data distinct member names orphan]
    rfl

end Sys2Proof.Machine
end

section
/-! The events of an end do not look at the memory port but for its queue and its live operations, so an end reported
with the id free and one reported with the operation an orphan do the same. -/

namespace Sys2Proof.Machine

/-- The state with another memory port. -/
def State.withMem (s : State) (m : MemoryPort) : State := { s with mem := m }

section
variable (s : State) (m : MemoryPort)

@[simp] theorem State.withMem_mem : (s.withMem m).mem = m := rfl
@[simp] theorem State.withMem_mgmt : (s.withMem m).mgmt = s.mgmt := rfl
@[simp] theorem State.withMem_pool : (s.withMem m).pool = s.pool := rfl
@[simp] theorem State.txn_withMem (u : TxnNo) : (s.withMem m).txn u = s.txn u := rfl
@[simp] theorem State.ring_withMem (r : RingNo) : (s.withMem m).ring r = s.ring r := rfl
@[simp] theorem State.setRing_withMem (r : RingNo) (y : Ring) :
    (s.withMem m).setRing r y = (s.setRing r y).withMem m := rfl
@[simp] theorem State.setTxn_withMem (u : TxnNo) (x : Option Txn) :
    (s.withMem m).setTxn u x = (s.setTxn u x).withMem m := rfl
@[simp] theorem State.markCleared_withMem (r : RingNo) :
    (s.withMem m).markCleared r = (s.markCleared r).withMem m := rfl
@[simp] theorem State.releaseScan_withMem (r : RingNo) (examines : HoldReason → Bool) :
    (s.withMem m).releaseScan r examines = (s.releaseScan r examines).withMem m := rfl

@[simp] theorem State.ite_withMem (c : Prop) [Decidable c] (t : State) :
    (if c then s.withMem m else t.withMem m) = (if c then s else t).withMem m :=
  (apply_ite (State.withMem · m) c s t).symm

/-! ## The event queue, the table and the pool -/

@[simp] theorem State.offer_withMem (k : EventKind) (o : Option RingNo) (line : BitVec 2) (p : Option Nat)
    (c : EventCount) : (s.withMem m).offer k o line p c = (s.offer k o line p c).withMem m := by
  rcases Nat.lt_or_ge s.events.records.length Config.eventQueueSize with room | full
  · rw [s.offer_of_room k o line p c room, (s.withMem m).offer_of_room k o line p c room]
    rfl
  · rw [s.offer_of_full k o line p c full, (s.withMem m).offer_of_full k o line p c full]
    rfl

@[simp] theorem State.raise_withMem (r : RingNo) (k : EventKind) (p : Option Nat) (c : EventCount) :
    (s.withMem m).raise r k p c = (s.raise r k p c).withMem m := by
  simp only [State.raise, State.ring_withMem, State.offer_withMem, State.ite_withMem]

@[simp] theorem State.answer_withMem (u : TxnNo) (a : Status) (d : List Byte) :
    (s.withMem m).answer u a d = (s.answer u a d).withMem m := by
  simp only [State.answer, State.txn_withMem]
  cases s.txn u <;> rfl

@[simp] theorem State.answerHeld_withMem (chosen : HoldEntry → Bool) (status : HoldEntry → Status) :
    (s.withMem m).answerHeld chosen status = (s.answerHeld chosen status).withMem m := by
  have answered := List.foldl_hom (State.withMem · m) (g₁ := fun s h => s.answer h.transaction (status h))
    (g₂ := fun s h => s.answer h.transaction (status h)) (l := s.pool.entries.filter chosen) (init := s)
    fun t h => t.answer_withMem m h.transaction (status h) []
  simp only [State.answerHeld, State.withMem_pool, answered]
  rfl

/-! ## The ring engine -/

@[simp] theorem State.evaluateLevel_withMem (r : RingNo) :
    (s.withMem m).evaluateLevel r = (s.evaluateLevel r).withMem m := by
  simp only [State.evaluateLevel, State.ring_withMem]
  cases (s.ring r).side <;> simp

@[simp] theorem State.testDrainEnd_withMem (r : RingNo) :
    (s.withMem m).testDrainEnd r = (s.testDrainEnd r).withMem m := by
  simp [State.testDrainEnd]

@[simp] theorem State.enterHalted_withMem (r : RingNo) : (s.withMem m).enterHalted r = (s.enterHalted r).withMem m := by
  simp [State.enterHalted, State.answerHoldList]

@[simp] theorem State.finishWriteEnd_withMem (r : RingNo) (f0 : Nat) :
    (s.withMem m).finishWriteEnd r f0 = (s.finishWriteEnd r f0).withMem m := by
  simp [State.finishWriteEnd]

@[simp] theorem State.absorbWrites_withMem (r : RingNo) :
    (s.withMem m).absorbWrites r = (s.absorbWrites r).withMem m := by
  have poisoned (added : List Extent) (t : State) (A : Nat) := List.foldl_hom (State.withMem · m)
    (g₁ := fun (s : State) (e : Extent) => s.raise r .poisoned (some e.start) (.bytes (e.length A)))
    (g₂ := fun (s : State) (e : Extent) => s.raise r .poisoned (some e.start) (.bytes (e.length A))) (l := added)
    (init := t) fun t e => t.raise_withMem m r _ _ _
  simp only [State.absorbWrites, State.ring_withMem, State.setRing_withMem, poisoned, State.enterHalted_withMem,
    State.ite_withMem, State.finishWriteEnd_withMem]

@[simp] theorem State.absorbReads_withMem (r : RingNo) : (s.withMem m).absorbReads r = (s.absorbReads r).withMem m := by
  simp only [State.absorbReads, State.ring_withMem, State.setRing_withMem, State.evaluateLevel_withMem,
    State.releaseScan_withMem, State.ite_withMem]

/-! ## The end of a request -/

@[simp] theorem State.endWrite_withMem (r : RingNo) (u : TxnNo) (ok : Bool) :
    (s.withMem m).endWrite r u ok = (s.endWrite r u ok).withMem m := by
  simp only [State.endWrite, State.ring_withMem, State.setRing_withMem, State.answer_withMem,
    State.absorbWrites_withMem, State.ite_withMem]

@[simp] theorem State.endRead_withMem (r : RingNo) (u : TxnNo) (ok : Bool) (data : List Byte) :
    (s.withMem m).endRead r u ok data = (s.endRead r u ok data).withMem m := by
  simp only [State.endRead, State.ring_withMem, State.setRing_withMem, State.answer_withMem,
    State.absorbReads_withMem, State.ite_withMem]

@[simp] theorem State.endPassThrough_withMem (u : TxnNo) (x : Txn) :
    (s.withMem m).endPassThrough u x = (s.endPassThrough u x).withMem m := by
  simp [State.endPassThrough]

@[simp] theorem State.endRingRequest_withMem (r : RingNo) (u : TxnNo) (x : Txn) :
    (s.withMem m).endRingRequest r u x = (s.endRingRequest r u x).withMem m := by
  unfold State.endRingRequest
  cases x.direction <;> simp

end

/-! ## The tests and the report -/

/-- The live operations of the memory port, which the clear-end test and the completion test look at (R37, R172). -/
def MemoryPort.live (p : MemoryPort) : List Outstanding := p.outstanding.filter fun o => o.condition = .live

/-- Two memory ports with one queue and the same live operations. -/
structure MemoryPort.SameWork (p q : MemoryPort) : Prop where
  queue : q.queue = p.queue
  live : q.live = p.live

section
variable (s : State) {m : MemoryPort}

theorem State.ringBusy_eq_live (r : RingNo) :
    s.ringBusy r = (s.mem.queue.any (fun o => s.ringOf o.transaction = some r)
      || s.mem.live.any fun o => s.ringOf o.transaction = some r) := by
  simp only [State.ringBusy, MemoryPort.live, List.any_filter]

theorem State.resetMayComplete_eq_live :
    s.resetMayComplete = (s.part == .resetting && s.sys.table.toList.all Option.isNone && s.mem.queue.isEmpty
      && s.mem.live.isEmpty) := by
  have orphans : (s.mem.outstanding.all fun o => o.condition = .orphan) = s.mem.live.isEmpty := by
    rw [Bool.eq_iff_iff, List.all_eq_true, List.isEmpty_iff, MemoryPort.live, List.filter_eq_nil_iff]
    refine forall₂_congr fun o _ => ?_
    cases o.condition <;> simp
  rw [State.resetMayComplete, orphans]

theorem State.testClearEnd_withMem (same : s.mem.SameWork m) (r : RingNo) :
    (s.withMem m).testClearEnd r = (s.testClearEnd r).withMem m := by
  have busy : (s.withMem m).ringBusy r = s.ringBusy r := by
    simp only [State.ringBusy_eq_live, State.withMem_mem, same.queue, same.live]
    rfl
  simp only [State.testClearEnd, busy, State.ring_withMem, State.setRing_withMem, State.markCleared_withMem,
    State.raise_withMem, State.ite_withMem]

theorem State.testResetCompletion_withMem (same : s.mem.SameWork m) :
    (s.withMem m).testResetCompletion = s.testResetCompletion.withMem m := by
  have complete : (s.withMem m).resetMayComplete = s.resetMayComplete := by
    simp only [State.resetMayComplete_eq_live, State.withMem_mem, same.queue, same.live]
    rfl
  unfold State.testResetCompletion
  rw [complete]
  split <;> rfl

/-- An end is reported alike beside any memory port with the same work (R160). -/
theorem State.reportEnd_withMem (same : s.mem.SameWork m) (u : TxnNo) (p : PartNo) (e : OpEnd) :
    (s.withMem m).reportEnd u p e = (s.reportEnd u p e).withMem m := by
  have completed (t : State) (mem : t.mem = s.mem) := t.testResetCompletion_withMem (mem ▸ same)
  have cleared (t : State) (mem : t.mem = s.mem) := t.testClearEnd_withMem (mem ▸ same)
  cases txn : s.txn u with
  | none =>
    simp only [State.reportEnd, State.txn_withMem, txn]
    exact completed s rfl
  | some x =>
    cases ring : x.ring with
    | none =>
      rw [State.reportEnd_passThrough s txn ring, State.reportEnd_passThrough (s.withMem m) txn ring,
        State.setTxn_withMem, State.endPassThrough_withMem, State.ite_withMem, completed]
      split <;> simp
    | some r =>
      rw [State.reportEnd_ring s txn ring, State.reportEnd_ring (s.withMem m) txn ring,
        State.setTxn_withMem, State.endRingRequest_withMem, State.ite_withMem, cleared, completed]
      all_goals split <;> simp

end

end Sys2Proof.Machine
end

section
/-! An advance of the tick count at the memory port: every expiry is an ERROR response that leaves an orphan, and the
request of an expiring operation is answered FAULT whatever expires beside it (O34). -/

namespace Sys2Proof.Machine

/-! ## One expiry -/

/-- An operation expires: it becomes an orphan and is reported failed (R158, R160). -/
def State.expireOperation (s : State) (o : Outstanding) : State :=
  (s.orphan o.id).reportEnd o.transaction o.part .failed

/-- The memory port takes an advance by one expiry after another (R158). -/
theorem State.takeTimeouts_eq (s : State) : s.takeTimeouts = s.expiringOperations.foldl State.expireOperation s := rfl

/-- Operations whose deadline has come: live under ids of their own, in a part out of reset. -/
structure State.FallDue (s : State) (l : List Outstanding) : Prop where
  awake : s.inReset = false
  distinct : (s.mem.outstanding.map Outstanding.id).Nodup
  listed : (l.map Outstanding.id).Nodup
  live : ∀ o ∈ l, o ∈ s.mem.outstanding ∧ o.condition = .live

section
variable {s : State} {o : Outstanding} {l : List Outstanding}

theorem State.expireOperation_mem (s : State) (o : Outstanding) : (s.expireOperation o).mem = (s.orphan o.id).mem :=
  State.reportEnd_mem ..

/-- The expired operation is live no longer whether its id is free or an orphan's (R157, R158). -/
theorem State.sameWork_orphan (s : State) (id : OpId) : (s.freeOperation id).mem.SameWork (s.orphan id).mem where
  queue := rfl
  live := by
    simp only [MemoryPort.live, State.orphan, State.freeOperation]
    induction s.mem.outstanding with
    | nil => rfl
    | cons o l ih => by_cases same : o.id = id <;> simp [same, ih, List.filter_cons]

/-- An expiry is the operation's ERROR response, but for the id that stays in use (R158). -/
theorem State.expireOperation_eq (s : State) (o : Outstanding) : s.expireOperation o
    = ((s.freeOperation o.id).reportEnd o.transaction o.part .failed).withMem (s.orphan o.id).mem :=
  (s.freeOperation o.id).reportEnd_withMem (s.sameWork_orphan o.id) o.transaction o.part .failed

theorem State.FallDue.exec_error (h : s.FallDue (o :: l)) :
    exec (.memoryResponse (BitVec.ofNat 6 o.id.val) .error []) s
      = .next ((s.freeOperation o.id).reportEnd o.transaction o.part .failed) := by
  obtain ⟨member, live⟩ := h.live o List.mem_cons_self
  have names : o.id.val = (BitVec.ofNat 6 o.id.val).toNat := by
    rw [BitVec.toNat_ofNat, Nat.mod_eq_of_lt (by omega)]
  simp only [exec, execMemoryResponse, State.outOfReset_of h.awake]
  rw [s.takeResponse_live h.distinct member names live fun _ error => by cases error]
  rfl

/-- After an expiry the operations behind it are still live (R158). -/
theorem State.FallDue.tail (h : s.FallDue (o :: l)) : (s.expireOperation o).FallDue l := by
  obtain ⟨fresh, listed⟩ := List.nodup_cons.mp h.listed
  refine ⟨(State.reportEnd_inReset ..).trans h.awake, ?_, listed, fun p later => ?_⟩
  · rw [State.expireOperation_mem]
    exact (congrArg _ (map_id_orphaned s.mem.outstanding fun p => p.id = o.id)).mpr h.distinct
  · obtain ⟨member, live⟩ := h.live p (List.mem_cons_of_mem o later)
    have other : p.id ≠ o.id := fun same => fresh (List.mem_map.mpr ⟨p, later, same⟩)
    rw [State.expireOperation_mem]
    exact ⟨List.mem_map.mpr ⟨p, member, if_neg other⟩, live⟩

/-- Whatever does the same as an expiry for each operation does the same for all of them in turn. -/
theorem State.FallDue.foldl_eq {expire : State → Outstanding → State}
    (agrees : ∀ {s : State} {o : Outstanding} {l : List Outstanding}, s.FallDue (o :: l) →
      expire s o = s.expireOperation o) (h : s.FallDue l) : l.foldl State.expireOperation s = l.foldl expire s := by
  induction l generalizing s with
  | nil => rfl
  | cons o l ih => rw [List.foldl_cons, List.foldl_cons, agrees h, ih h.tail]

end

/-! ## The memory port -/

/-- The operations that expire become orphans, and nothing else in the memory port changes (R158). -/
theorem State.foldl_expireOperation_mem (l : List Outstanding) (s : State) :
    (l.foldl State.expireOperation s).mem = { s.mem with
      outstanding := s.mem.outstanding.map fun o => if o.id ∈ l.map Outstanding.id then o.orphaned else o } := by
  induction l generalizing s with
  | nil => simp
  | cons e l ih =>
    rw [List.foldl_cons, ih, State.expireOperation_mem]
    simp only [State.orphan, List.map_map, MemoryPort.mk.injEq, true_and, and_true]
    refine List.map_congr_left fun o _ => ?_
    by_cases first : o.id = e.id
    · simp [first, Outstanding.orphaned]
    · simp [first]

/-- Ids name the operations that expire, where the ids in use are distinct. -/
theorem mem_map_id_filter_iff {l : List Outstanding} (distinct : (l.map Outstanding.id).Nodup) {o : Outstanding}
    (member : o ∈ l) (due : Outstanding → Bool) : o.id ∈ (l.filter due).map Outstanding.id ↔ due o = true := by
  constructor
  · intro named
    obtain ⟨p, expired, same⟩ := List.mem_map.mp named
    obtain ⟨listed, isDue⟩ := List.mem_filter.mp expired
    rwa [← List.inj_on_of_nodup_map distinct listed member same]
  · exact fun isDue => List.mem_map.mpr ⟨o, List.mem_filter.mpr ⟨member, isDue⟩, rfl⟩

/-! ## A request beside other requests' events -/

/-- The entry holds a request that is past its admission and not held. -/
structure State.Stands (s : State) (u : TxnNo) (x : Txn) : Prop where
  txn : s.txn u = some x
  stage : x.stage ≠ .accepted
  unheld : ∀ h ∈ s.pool.entries, h.transaction ≠ u

section
variable {s s' : State} {u v : TxnNo} {x y z : Txn}

theorem State.Stands.of_fields (h : s.Stands u x) (sys : s'.sys = s.sys := by simp)
    (pool : s'.pool = s.pool := by simp) : s'.Stands u x :=
  ⟨(State.txn_congr sys u).trans h.txn, h.stage, pool ▸ h.unheld⟩

theorem State.Stands.setTxn_self (h : s.Stands u x) (stage : y.stage ≠ .accepted) : (s.setTxn u (some y)).Stands u y :=
  ⟨State.txn_setTxn_self .., stage, h.unheld⟩

theorem State.Stands.setTxn_other (h : s.Stands u x) (other : u ≠ v) (y : Option Txn) : (s.setTxn v y).Stands u x :=
  ⟨(State.txn_setTxn_ne s other y).trans h.txn, h.stage, h.unheld⟩

theorem State.Stands.answer_self (h : s.Stands u x) (a : Status) (d : List Byte) :
    (s.answer u a d).Stands u (x.answered a d) :=
  ⟨by rw [State.txn_answer, if_pos rfl, h.txn, Option.map_some], nofun, (State.answer_pool ..).symm ▸ h.unheld⟩

theorem State.Stands.answer_other (h : s.Stands u x) (other : u ≠ v) (a : Status) (d : List Byte) :
    (s.answer v a d).Stands u x :=
  ⟨by rw [State.txn_answer, if_neg other, h.txn], h.stage, (State.answer_pool ..).symm ▸ h.unheld⟩

theorem State.Stands.answerHeld (h : s.Stands u x) (chosen : HoldEntry → Bool) (status : HoldEntry → Status) :
    (s.answerHeld chosen status).Stands u x where
  txn := Eq.trans
    (State.txn_answerHeld_of_not_mem s chosen status fun g hg => h.unheld g (List.mem_of_mem_filter hg)) h.txn
  stage := h.stage
  unheld := by
    rw [State.answerHeld_poolIs]
    exact fun g hg => h.unheld g (List.mem_of_mem_filter hg)

theorem State.Stands.releaseScan (h : s.Stands u x) (r : RingNo) (examines : HoldReason → Bool) :
    (s.releaseScan r examines).Stands u x where
  txn := h.txn
  stage := h.stage
  unheld := by
    intro g hg
    obtain ⟨g', hg', rfl⟩ := List.mem_map.mp hg
    split
    · exact h.unheld g' hg'
    · exact h.unheld g' hg'

/-! ### The ring engine -/

theorem State.Stands.setRing (h : s.Stands u x) (r : RingNo) (y : Ring) : (s.setRing r y).Stands u x := h.of_fields

theorem State.Stands.raise (h : s.Stands u x) (r : RingNo) (k : EventKind) (p : Option Nat) (c : EventCount) :
    (s.raise r k p c).Stands u x := h.of_fields

theorem State.Stands.evaluateLevel (h : s.Stands u x) (r : RingNo) : (s.evaluateLevel r).Stands u x := h.of_fields

theorem State.Stands.testDrainEnd (h : s.Stands u x) (r : RingNo) : (s.testDrainEnd r).Stands u x := h.of_fields

theorem State.Stands.testResetCompletion (h : s.Stands u x) : s.testResetCompletion.Stands u x := h.of_fields

/-- A clear that ends marks requests that are still to be admitted alone (R3, R37). -/
theorem State.Stands.testClearEnd (h : s.Stands u x) (r : RingNo) : (s.testClearEnd r).Stands u x :=
  ⟨s.txn_testClearEnd_of_stage h.txn h.stage, h.stage, (State.testClearEnd_pool ..).symm ▸ h.unheld⟩

theorem State.Stands.enterHalted (h : s.Stands u x) (r : RingNo) : (s.enterHalted r).Stands u x :=
  ((h.setRing r _).answerHeld _ _).raise _ _ _ _

theorem State.Stands.finishWriteEnd (h : s.Stands u x) (r : RingNo) (f0 : Nat) :
    (s.finishWriteEnd r f0).Stands u x := by
  unfold State.finishWriteEnd
  extract_lets y moved boundary applied s1 s2 s3 s4
  have h1 : s1.Stands u x := iteInduction (motive := (State.Stands · u x)) (fun _ => h.setRing r _) fun _ => h
  have h2 : s2.Stands u x := iteInduction (motive := (State.Stands · u x)) (fun _ => h1.evaluateLevel r) fun _ => h1
  have h3 : s3.Stands u x := iteInduction (motive := (State.Stands · u x)) (fun _ => h2.releaseScan r _) fun _ => h2
  have h4 : s4.Stands u x := iteInduction (motive := (State.Stands · u x)) (fun _ => h3.raise _ _ _ _) fun _ => h3
  exact h4.testDrainEnd r

theorem State.Stands.absorbWrites (h : s.Stands u x) (r : RingNo) : (s.absorbWrites r).Stands u x := by
  rw [State.absorbWrites_eq]
  refine State.Stands.finishWriteEnd ?_ r _
  unfold State.settleWrites
  extract_lets y a poisoned
  have h1 : poisoned.Stands u x :=
    foldl_keeps _ (State.Stands · u x) _ (fun _ e _ hs => hs.raise r _ _ _) _ (h.setRing r _)
  exact iteInduction (motive := (State.Stands · u x)) (fun _ => h1.enterHalted r) fun _ => h1

theorem State.Stands.absorbReads (h : s.Stands u x) (r : RingNo) : (s.absorbReads r).Stands u x := by
  unfold State.absorbReads
  extract_lets y a s1 s2
  have h1 : s1.Stands u x := h.setRing r _
  have h2 : s2.Stands u x := h1.evaluateLevel r
  split
  · exact h1
  split
  · exact h2.releaseScan r _
  · exact h2

/-! ### The end of a request -/

/-- The answer to the request of entry `v` at its end takes `u`'s request from `x` to `y`: a FAULT without data, unless
every part ended OK (R13). -/
def EndAnswers (v : TxnNo) (ok : Bool) (u : TxnNo) (x y : Txn) : Prop :=
  ∀ (s : State) (a : Status) (d : List Byte), (ok = false → a = .fault ∧ d = []) → s.Stands u x →
    (s.answer v a d).Stands u y

theorem EndAnswers.other (other : u ≠ v) (ok : Bool) (x : Txn) : EndAnswers v ok u x x :=
  fun _ a d _ h => h.answer_other other a d

theorem EndAnswers.failed (u : TxnNo) (x : Txn) : EndAnswers u false u x (x.answered .fault []) := by
  intro s a d fails h
  obtain ⟨rfl, rfl⟩ := fails rfl
  exact h.answer_self .fault []

theorem State.Stands.endWrite (h : s.Stands u x) {ok : Bool} (answers : EndAnswers v ok u x y) (r : RingNo) :
    (s.endWrite r v ok).Stands u y := by
  unfold State.endWrite
  extract_lets ring fill s1 s2
  have h1 : s1.Stands u x := h.setRing r _
  have h2 : s2.Stands u y := answers s1 _ [] (fun failed => by rw [failed]; exact ⟨rfl, rfl⟩) h1
  exact iteInduction (motive := (State.Stands · u y)) (fun _ => h2.absorbWrites r) fun _ => h2

theorem State.Stands.endRead (h : s.Stands u x) {ok : Bool} (answers : EndAnswers v ok u x y) (r : RingNo)
    (data : List Byte) : (s.endRead r v ok data).Stands u y := by
  unfold State.endRead
  dsimp only
  cases ok with
  | false =>
    have answered : (s.answer v .fault).Stands u y := answers s .fault [] (fun _ => ⟨rfl, rfl⟩) h
    exact answered.setRing r _
  | true =>
    have answered : (s.answer v .done data).Stands u y := answers s .done data nofun h
    rw [if_pos rfl]
    split
    · split
      · exact (answered.setRing r _).absorbReads r
      · exact answered.setRing r _
    · exact answered

theorem State.Stands.endRingRequest (h : s.Stands u x) (answers : EndAnswers v z.allOk u x y) (r : RingNo) :
    (s.endRingRequest r v z).Stands u y := by
  unfold State.endRingRequest
  split
  · exact h.endWrite answers r
  · exact h.endRead answers r z.joined

theorem State.Stands.endPassThrough (h : s.Stands u x) (answers : EndAnswers v z.allOk u x y) :
    (s.endPassThrough v z).Stands u y := by
  unfold State.endPassThrough
  split
  · rename_i ok
    exact answers s .done z.joined (fun failed => absurd (failed.symm.trans ok) Bool.false_ne_true) h
  · have answered : (s.answer v .fault).Stands u y := answers s .fault [] (fun _ => ⟨rfl, rfl⟩) h
    dsimp only
    split
    · exact answered.of_fields
    · exact answered

/-! ### The report of an end -/

/-- The end of another request's operation leaves the request as it is (R160). -/
theorem State.Stands.reportEnd_other (h : s.Stands u x) (other : u ≠ v) (p : PartNo) (e : OpEnd) :
    (s.reportEnd v p e).Stands u x := by
  cases txn : s.txn v with
  | none =>
    simp only [State.reportEnd, txn]
    exact h.testResetCompletion
  | some z =>
    have recorded := h.setTxn_other other (some (z.endPart p e))
    have answers := EndAnswers.other other (z.endPart p e).allOk x
    cases ring : z.ring with
    | none =>
      rw [State.reportEnd_passThrough s txn ring]
      exact State.Stands.testResetCompletion
        (iteInduction (motive := (State.Stands · u x)) (fun _ => recorded.endPassThrough answers) fun _ => recorded)
    | some r =>
      rw [State.reportEnd_ring s txn ring]
      refine State.Stands.testResetCompletion (State.Stands.testClearEnd ?_ r)
      exact iteInduction (motive := (State.Stands · u x)) (fun _ => recorded.endRingRequest answers r) fun _ => recorded

/-- A part that failed makes the request's end a failure (R13). -/
theorem Txn.allOk_endPart_failed {x : Txn} {p : PartNo} (part : p.index < x.parts.length) :
    (x.endPart p .failed).allOk = false := by
  have inside : p.index < (x.endPart p .failed).parts.length := by simpa [Txn.endPart] using part
  rw [Txn.allOk, List.all_eq_false]
  refine ⟨_, List.getElem_mem inside, ?_⟩
  simp [Txn.endPart, Part.ended]

/-- The last part of a request fails: the request is answered FAULT with no data (R13, R108). -/
theorem State.Stands.reportEnd_last (h : s.Stands u x) (last : x.outstanding = 1) {p : PartNo}
    (part : p.index < x.parts.length) :
    (s.reportEnd u p .failed).Stands u ((x.endPart p .failed).answered .fault []) := by
  have recorded : (s.setTxn u (some (x.endPart p .failed))).Stands u (x.endPart p .failed) := h.setTxn_self h.stage
  have ended : (x.endPart p .failed).outstanding = 0 := by simp [Txn.endPart, last]
  have answers := EndAnswers.failed u (x.endPart p .failed)
  rw [← Txn.allOk_endPart_failed part] at answers
  cases ring : x.ring with
  | none =>
    rw [State.reportEnd_passThrough s h.txn ring, if_pos ended]
    exact (recorded.endPassThrough answers).testResetCompletion
  | some r =>
    rw [State.reportEnd_ring s h.txn ring, if_pos ended]
    exact ((recorded.endRingRequest answers r).testClearEnd r).testResetCompletion

/-! ### Expiries -/

theorem State.Stands.expire_others (h : s.Stands u x) {l : List Outstanding} (others : ∀ o ∈ l, u ≠ o.transaction) :
    (l.foldl State.expireOperation s).Stands u x :=
  foldl_keeps _ (State.Stands · u x) l
    (fun s o member hs =>
      State.Stands.reportEnd_other (s := s.orphan o.id) hs.of_fields (others o member) o.part .failed) s h

/-- The request of the one operation of its own that expires, its last, is answered FAULT whatever expires before and
after it (R108, R158). -/
theorem State.Stands.expire_last {o : Outstanding} {l : List Outstanding} (h : s.Stands o.transaction x)
    (distinct : l.Nodup) (member : o ∈ l) (alone : ∀ p ∈ l, p.transaction = o.transaction → p = o)
    (last : x.outstanding = 1) (part : o.part.index < x.parts.length) :
    (l.foldl State.expireOperation s).Stands o.transaction ((x.endPart o.part .failed).answered .fault []) := by
  obtain ⟨before, after, rfl⟩ := List.append_of_mem member
  obtain ⟨-, rest, apart⟩ := List.nodup_append.mp distinct
  have earlier : ∀ p ∈ before, o.transaction ≠ p.transaction := fun p early same =>
    apart p early o List.mem_cons_self (alone p (List.mem_append_left _ early) same.symm)
  have later : ∀ p ∈ after, o.transaction ≠ p.transaction := fun p late same =>
    (List.nodup_cons.mp rest).1
      (alone p (List.mem_append_right _ (List.mem_cons_of_mem o late)) same.symm ▸ late)
  rw [List.foldl_append, List.foldl_cons]
  refine State.Stands.expire_others ?_ later
  have waiting : (State.orphan (before.foldl State.expireOperation s) o.id).Stands o.transaction x :=
    (h.expire_others earlier).of_fields
  exact waiting.reportEnd_last last part

end

/-- Settles O34: every expiry is the operation's ERROR response with another memory port (`State.expireOperation_eq`),
and a request is answered by its own expiry alone (`State.Stands.expire_last`). -/
theorem timeoutOrphansExpiredOperations : Obligations.TimeoutOrphansExpiredOperations := by
  intro s h0 distinct due expired expire
  have expiring : s.expiringOperations = expired := List.filter_congr fun o _ => (Bool.decide_and ..).symm
  have waiting : s.FallDue expired :=
    ⟨h0, distinct, distinct.sublist (List.filter_sublist.map _), fun o member =>
      have ⟨listed, isDue⟩ := List.mem_filter.mp member
      ⟨listed, (of_decide_eq_true isDue).1⟩⟩
  have timedOut : exec .responseTimeout s = .next (expired.foldl State.expireOperation s) := by
    rw [← expiring, ← s.takeTimeouts_eq]
    exact congrArg _ (State.outOfReset_of h0 _)
  refine ⟨_, timedOut, waiting.foldl_eq fun h => ?_, ?_, fun none => by rw [none]; rfl, ?_⟩
  · simp only [expire, h.exec_error, State.expireOperation_eq]
    rfl
  · rw [State.foldl_expireOperation_mem]
    exact congrArg (fun l => { s.mem with outstanding := l })
      (List.map_congr_left fun o member => if_congr (mem_map_id_filter_iff distinct member due) rfl rfl)
  · intro o member alone x txn stage last part unheld
    have stands : s.Stands o.transaction x := ⟨txn, by simp [stage], unheld⟩
    rw [(stands.expire_last waiting.listed.of_map member alone last part).txn]
    simp only [Txn.endPart, Txn.answered, last]
    rfl

end Sys2Proof.Machine
end

section
/-! The part reset: RESET_PART clears the rings one after another (O52), and the completion test (O53). -/

namespace Sys2Proof.Machine

/-! ## The clear of one ring -/

/-- A part reset clears the ring: it is neither OFF nor CLEARING (R42, R171). -/
def Ring.takenByReset (x : Ring) : Bool := decide (x.state ≠ .off ∧ x.state ≠ .clearing)

/-- The ring as a part reset leaves it: CLEARING while an operation of it is left, OFF otherwise (R36, R37). -/
def Ring.clearedByReset (x : Ring) (busy : Bool) : Ring :=
  if x.takenByReset then
    if busy then { x with state := .clearing, outcome := .accepted } else { x.endClear with outcome := .accepted }
  else x

section
variable (s : State) (r : RingNo)

theorem State.clearForReset_eq : s.clearForReset r = if (s.ring r).takenByReset then s.beginClear r else s := by
  unfold State.clearForReset Ring.takenByReset
  cases (s.ring r).state <;> rfl

@[simp] theorem State.testClearEnd_readyOrder : (s.testClearEnd r).sys.readyOrder = s.sys.readyOrder := by
  unfold State.testClearEnd
  split
  · rw [State.raise_sys]
    rfl
  · rfl

@[simp] theorem State.testClearEnd_sysLink : (s.testClearEnd r).sys.link = s.sys.link := by
  unfold State.testClearEnd
  split
  · rw [State.raise_sys]
    rfl
  · rfl

/-- A clear that begins leaves its ring CLEARING or OFF by whether an operation of it was left (R36, R37). -/
theorem State.ring_beginClear_busy (q : RingNo) :
    (s.beginClear r).ring q = if q = r then
      if s.ringBusy r then { s.ring r with state := .clearing, outcome := .accepted }
      else { (s.ring r).endClear with outcome := .accepted }
    else s.ring q := by
  have busy : ((s.answerHoldList r fun _ => .aborted).setRing r
      { s.ring r with state := .clearing, outcome := .accepted }).ringBusy r = s.ringBusy r :=
    State.ringBusy_congr r (by simp) fun u => State.ringOf_answerHeld s _ _ u
  rw [State.ring_beginClear, busy]
  cases s.ringBusy r <;> rfl

theorem State.ring_clearForReset (q : RingNo) :
    (s.clearForReset r).ring q = if q = r then (s.ring r).clearedByReset (s.ringBusy r) else s.ring q := by
  rw [State.clearForReset_eq, Ring.clearedByReset]
  by_cases taken : (s.ring r).takenByReset = true
  · rw [if_pos taken, if_pos taken, State.ring_beginClear_busy]
  · rw [if_neg taken, if_neg taken]
    split
    · rename_i same
      rw [same]
    · rfl

theorem State.ringBusy_clearForReset (q : RingNo) : (s.clearForReset r).ringBusy q = s.ringBusy q := by
  rw [State.clearForReset_eq]
  split
  · exact s.ringBusy_beginClear r q
  · rfl

/-- The hold list of a ring that is taken leaves the pool (R103). -/
theorem State.clearForReset_entries : (s.clearForReset r).pool.entries
    = s.pool.entries.filter fun h => !(decide (h.ring = r) && (s.ring r).takenByReset) := by
  rw [State.clearForReset_eq]
  cases (s.ring r).takenByReset with
  | false => simp
  | true =>
    have begun : (s.beginClear r).pool = (s.answerHoldList r fun _ => .aborted).pool := by simp [State.beginClear]
    rw [if_pos rfl, begun, State.answerHoldList_entries]
    exact List.filter_congr fun h _ => by simp

/-- It joins the ready order in its own order (R103). -/
theorem State.clearForReset_readyOrder (placed : ∀ h ∈ s.pool.entries, s.txn h.transaction ≠ none) :
    (s.clearForReset r).sys.readyOrder = s.sys.readyOrder ++ if (s.ring r).takenByReset then
      (s.pool.entries.filter fun h => h.ring = r).map HoldEntry.transaction else [] := by
  rw [State.clearForReset_eq]
  split
  · rw [State.beginClear, State.testClearEnd_readyOrder]
    exact s.answerHeld_readyOrder _ _ placed
  · exact (List.append_nil _).symm

@[simp] theorem State.clearForReset_sysLink : (s.clearForReset r).sys.link = s.sys.link := by
  rw [State.clearForReset_eq]
  split
  · rw [State.beginClear, State.testClearEnd_sysLink]
    exact s.answerHeld_sysLink _ _
  · rfl

/-- No request leaves the transaction table. -/
theorem State.clearForReset_placed (placed : ∀ h ∈ s.pool.entries, s.txn h.transaction ≠ none) :
    ∀ h ∈ (s.clearForReset r).pool.entries, (s.clearForReset r).txn h.transaction ≠ none := by
  intro h mem free
  have kept := ((State.KeepsHolders.refl s).clearForReset r).2 h.transaction
  rw [State.clearForReset_entries] at mem
  rw [State.masterOf, State.masterOf, free] at kept
  exact placed h (List.mem_filter.mp mem).1 (Option.map_eq_none_iff.mp kept.symm)

end

/-! ## The clears of the rings, one after another -/

section
variable (l : List RingNo) (s : State)

/-- A list of rings is cleared, each as it stood before the first (R171). -/
theorem State.ring_foldl_clearForReset (distinct : l.Nodup) (q : RingNo) :
    (l.foldl State.clearForReset s).ring q = if q ∈ l then (s.ring q).clearedByReset (s.ringBusy q) else s.ring q := by
  induction l generalizing s with
  | nil => rfl
  | cons r l ih =>
    obtain ⟨fresh, rest⟩ := List.nodup_cons.mp distinct
    rw [List.foldl_cons, ih _ rest, State.ringBusy_clearForReset, State.ring_clearForReset]
    by_cases same : q = r
    · subst same
      rw [if_neg fresh, if_pos rfl, if_pos List.mem_cons_self]
    · simp [same]

theorem State.foldl_clearForReset_entries (distinct : l.Nodup) :
    (l.foldl State.clearForReset s).pool.entries
      = s.pool.entries.filter fun h => !(decide (h.ring ∈ l) && (s.ring h.ring).takenByReset) := by
  induction l generalizing s with
  | nil => simp
  | cons r l ih =>
    obtain ⟨fresh, rest⟩ := List.nodup_cons.mp distinct
    rw [List.foldl_cons, ih _ rest, State.clearForReset_entries, List.filter_filter]
    refine List.filter_congr fun h _ => ?_
    rw [State.ring_clearForReset]
    by_cases same : h.ring = r
    · simp [same, fresh]
    · simp [same]

/-- The hold lists of the rings that are taken join the ready order in the order of the rings. -/
theorem State.foldl_clearForReset_readyOrder (distinct : l.Nodup)
    (placed : ∀ h ∈ s.pool.entries, s.txn h.transaction ≠ none) :
    (l.foldl State.clearForReset s).sys.readyOrder = s.sys.readyOrder ++ l.flatMap fun r =>
      if (s.ring r).takenByReset then (s.pool.entries.filter fun h => h.ring = r).map HoldEntry.transaction
      else [] := by
  induction l generalizing s with
  | nil => simp
  | cons r l ih =>
    obtain ⟨fresh, rest⟩ := List.nodup_cons.mp distinct
    rw [List.foldl_cons, ih _ rest (s.clearForReset_placed r placed), State.clearForReset_readyOrder s r placed,
      List.flatMap_cons, List.append_assoc]
    refine congrArg _ (congrArg _ (List.flatMap_congr fun q later => ?_))
    have other : q ≠ r := fun same => fresh (same ▸ later)
    rw [State.ring_clearForReset, if_neg other, State.clearForReset_entries, List.filter_filter]
    refine if_congr Iff.rfl (congrArg _ (List.filter_congr fun h _ => ?_)) rfl
    by_cases mine : h.ring = q
    · simp [mine, other]
    · simp [mine]

/-- Everything but the rings, the pool, the system port and the event queue stays. -/
theorem State.foldl_clearForReset_frame : l.foldl State.clearForReset s = { s with
    rings := (l.foldl State.clearForReset s).rings
    pool := (l.foldl State.clearForReset s).pool
    sys := (l.foldl State.clearForReset s).sys
    events := (l.foldl State.clearForReset s).events } := by
  have kept {β : Type} (p : State → β) (h : ∀ s r, p (State.clearForReset s r) = p s) :
      p (l.foldl State.clearForReset s) = p s := foldl_unchanged State.clearForReset p h l s
  exact State.eq_of_fields (kept State.inReset (by simp)) (kept State.part (by simp)) (kept State.mgmt (by simp))
    (kept State.time (by simp)) rfl (kept State.awaiting (by simp)) rfl rfl (kept State.mem (by simp)) rfl
    (kept State.freeCount (by simp)) (kept State.pending (by simp))

end

/-! ## RESET_PART -/

theorem exec_resetPart {s : State} (h0 : s.inReset = false) :
    exec .resetPart s = .next (s.takeResetPart.acknowledge 0x008) :=
  congrArg _ (State.writeAt_of_running s .control 0x100 h0)

/-- Settles O52: the part becomes RESETTING, the rings are cleared from 0 to 15, each as it stood, and the completion
test follows. -/
theorem resetPartClearsRings : Obligations.ResetPartClearsRings := by
  refine ⟨fun s h0 resetting => by rw [exec_resetPart h0, State.takeResetPart, resetting], ?_⟩
  intro s h0 running placed taken left
  have taken_eq : ∀ r, (s.ring r).takenByReset = taken r := fun _ => rfl
  have left_iff : ∀ r, left r ↔ s.ringBusy r = true := fun r => (s.ringBusy_iff r).symm
  have all : (List.finRange 16).Nodup := List.nodup_finRange 16
  generalize cleared_eq : (List.finRange 16).foldl State.clearForReset { s with part := .resetting } = c
  have ring (r : RingNo) : c.ring r = (s.ring r).clearedByReset (s.ringBusy r) := by
    rw [← cleared_eq, State.ring_foldl_clearForReset _ _ all, if_pos (List.mem_finRange r)]
    rfl
  have holders : s.KeepsHolders c := cleared_eq ▸
    foldl_keeps _ s.KeepsHolders _ (fun _ r _ hs => hs.clearForReset r) _ ((State.KeepsHolders.refl s).of_sys rfl)
  refine ⟨c, ?_, fun r untaken => ?_, fun r on busy => ?_, fun r on idle => ?_, ?_, ?_, holders.1, ?_, ?_⟩
  · rw [← cleared_eq]
    exact State.foldl_clearForReset_frame _ _
  · rw [ring, Ring.clearedByReset, taken_eq, untaken]
    rfl
  · rw [ring, Ring.clearedByReset, taken_eq, if_pos on, if_pos ((left_iff r).mp busy)]
  · rw [left_iff] at idle
    rw [ring, Ring.clearedByReset, taken_eq, if_pos on, if_neg idle, Ring.endClear_eq]
  · rw [← cleared_eq, State.foldl_clearForReset_entries _ _ all]
    exact List.filter_congr fun h _ => by
      rw [decide_eq_true (List.mem_finRange h.ring), Bool.true_and]
      rfl
  · rw [← cleared_eq]
    exact State.foldl_clearForReset_readyOrder _ { s with part := .resetting } all placed
  · rw [← cleared_eq]
    exact foldl_unchanged State.clearForReset (fun s => s.sys.link) (by simp) _ _
  · rw [exec_resetPart h0, State.takeResetPart, running, ← cleared_eq]

/-! ## The completion -/

/-- The conditions of the completion test (R172). -/
theorem State.resetMayComplete_iff (s : State) :
    s.resetMayComplete = true ↔ s.part = .resetting ∧ (∀ u, s.txn u = none) ∧ s.mem.queue = []
      ∧ ∀ o ∈ s.mem.outstanding, o.condition = .orphan := by
  have free : s.sys.table.toList.all Option.isNone = true ↔ ∀ u, s.txn u = none := by
    rw [List.all_eq_true]
    constructor
    · exact fun empty u => Option.isNone_iff_eq_none.mp (empty _ (by simp [State.txn]))
    · intro empty x mem
      obtain ⟨i, hi, rfl⟩ := Vector.mem_iff_getElem.mp (Vector.mem_toList_iff.mp mem)
      exact Option.isNone_iff_eq_none.mpr (empty ⟨i, hi⟩)
  simp only [State.resetMayComplete, Bool.and_eq_true, beq_iff_eq, free, List.isEmpty_iff, List.all_eq_true,
    decide_eq_true_eq, and_assoc]

theorem exec_partResetCompletion {s : State} (h0 : s.inReset = false) :
    exec .partResetCompletion s = .next s.testResetCompletion :=
  congrArg _ (State.outOfReset_of h0 _)

/-- Settles O53: the completion test is the model's (`State.resetMayComplete_iff`), and an empty queue asserts no line
(`lineLevels_nil`). -/
theorem partResetCompletes : Obligations.PartResetCompletes := by
  refine fun s h0 => ⟨exec_partResetCompletion h0, fun waits => ?_, fun ready => ?_⟩
  · rw [exec_partResetCompletion h0, State.testResetCompletion, if_neg (mt s.resetMayComplete_iff.mp waits)]
  · rw [exec_partResetCompletion h0, State.testResetCompletion, if_pos (s.resetMayComplete_iff.mpr ready)]
    refine ⟨_, rfl, rfl, fun r => ?_, ?_⟩
    · rw [State.ring_emptyEvents, State.ring, mapPlaces_get]
      rfl
    · simp only [State.emptyEvents, State.refreshLines, lineLevels_nil]

end Sys2Proof.Machine
end

section
/-! The register map (O9), and the words of a ring's structural and live registers (O10). -/

namespace Sys2Proof.Machine

/-! ## What an address names -/

theorem alignPointer_toNat (a : BitVec 16) : (alignPointer a).toNat = a.toNat / 4 * 4 := by
  have := a.isLt
  simp only [alignPointer, BitVec.toNat_append, BitVec.extractLsb'_toNat, Nat.shiftRight_eq_div_pow]
  simp [Nat.shiftLeft_eq]
  omega

/-- The four blocks of the map: an address names a register by its place in its block, its two low bits ignored
(R163, 10.7). -/
inductive Reg.Names (a : BitVec 16) : Reg → Prop where
  | global (i : Nat) (low : i < 0x40) (place : a.toNat / 4 = i) : Names a (.ofGlobalIndex i)
  | control (r : RingNo) (i : Nat) (low : i < 0x10) (place : a.toNat / 4 = 0x40 + 0x10 * r.val + i) :
      Names a (.ofControlIndex r i)
  | status (r : RingNo) (i : Nat) (low : i < 0x10) (place : a.toNat / 4 = 0x140 + 0x10 * r.val + i) :
      Names a (.ofStatusIndex r i)
  | beyond (high : 0x240 ≤ a.toNat / 4) : Names a .unmapped

theorem Reg.names_ofAddress (a : BitVec 16) : Reg.Names a (.ofAddress a) := by
  have ring {j : Nat} (h : j < 0x100) : (Fin.ofNat 16 (j / 16)).val = j / 16 := Nat.mod_eq_of_lt (by omega)
  unfold Reg.ofAddress
  dsimp only
  split
  · exact .global _ (by assumption) rfl
  split
  · exact .control _ _ (Nat.mod_lt _ (by decide)) (by rw [ring (by omega)]; omega)
  split
  · exact .status _ _ (Nat.mod_lt _ (by decide)) (by rw [ring (by omega)]; omega)
  · exact .beyond (by omega)

section
variable {a : BitVec 16} {reg : Reg} (names : Reg.Names a reg)
include names

theorem Reg.Names.eq_global (low : a.toNat / 4 < 0x40) : reg = .ofGlobalIndex (a.toNat / 4) := by
  cases names with
  | global i _ place => rw [place]
  | _ => omega

theorem Reg.Names.eq_control {r : RingNo} {i : Nat} (low : i < 0x10) (place : a.toNat / 4 = 0x40 + 0x10 * r.val + i) :
    reg = .ofControlIndex r i := by
  cases names with
  | control q j =>
    obtain rfl : q = r := Fin.ext (by omega)
    obtain rfl : j = i := by omega
    rfl
  | _ => omega

theorem Reg.Names.eq_status {r : RingNo} {i : Nat} (low : i < 0x10) (place : a.toNat / 4 = 0x140 + 0x10 * r.val + i) :
    reg = .ofStatusIndex r i := by
  cases names with
  | status q j =>
    obtain rfl : q = r := Fin.ext (by omega)
    obtain rfl : j = i := by omega
    rfl
  | _ => omega

end

/-! ## The address of each register -/

section
variable {reg : Reg} {k : Nat} (hk : k < 4)
include hk

theorem Reg.ofAddress_global {a : BitVec 16} (index : Reg.ofGlobalIndex (a.toNat / 4) = reg)
    (aligned : a.toNat % 4 = 0 ∧ a.toNat < 0x100) : Reg.ofAddress (a + BitVec.ofNat 16 k) = reg := by
  have place : (a + BitVec.ofNat 16 k).toNat / 4 = a.toNat / 4 := by
    rw [BitVec.toNat_add, BitVec.toNat_ofNat]
    omega
  rw [← index, ← place]
  exact (Reg.names_ofAddress _).eq_global (by omega)

theorem Reg.ofAddress_control {r : RingNo} {o : Nat} (index : Reg.ofControlIndex r (o / 4) = reg)
    (aligned : o % 4 = 0 ∧ o < 0x40) : Reg.ofAddress (controlAddress r o + BitVec.ofNat 16 k) = reg := by
  rw [← index]
  refine (Reg.names_ofAddress _).eq_control (by omega) ?_
  rw [controlAddress, BitVec.toNat_add, BitVec.toNat_ofNat, BitVec.toNat_ofNat]
  omega

theorem Reg.ofAddress_status {r : RingNo} {o : Nat} (index : Reg.ofStatusIndex r (o / 4) = reg)
    (aligned : o % 4 = 0 ∧ o < 0x40) : Reg.ofAddress (statusAddress r o + BitVec.ofNat 16 k) = reg := by
  rw [← index]
  refine (Reg.names_ofAddress _).eq_status (by omega) ?_
  rw [statusAddress, BitVec.toNat_add, BitVec.toNat_ofNat, BitVec.toNat_ofNat]
  omega

/-- Each register is the one that its own address names, whatever the two low bits (10.7). -/
theorem Reg.ofAddress_address (mapped : reg ≠ .unmapped) : Reg.ofAddress (reg.address + BitVec.ofNat 16 k) = reg := by
  cases reg with
  | unmapped => exact absurd rfl mapped
  | structural r g => cases g <;> exact Reg.ofAddress_control hk rfl (by decide)
  | live r g => cases g <;> exact Reg.ofAddress_control hk rfl (by decide)
  | command r => exact Reg.ofAddress_control hk rfl (by decide)
  | fillCounter r c => cases c <;> exact Reg.ofAddress_control hk rfl (by decide)
  | lateCounter r => exact Reg.ofAddress_control hk rfl (by decide)
  | status r g =>
    cases g with
    | poisonStart i | poisonLength i => fin_cases i <;> exact Reg.ofAddress_status hk rfl (by decide)
    | _ => exact Reg.ofAddress_status hk rfl (by decide)
  | _ => exact Reg.ofAddress_global hk rfl (by decide)

/-- The two low bits of a register's address are ignored (R163). -/
theorem Reg.alignPointer_address (reg : Reg) : alignPointer (reg.address + BitVec.ofNat 16 k) = reg.address := by
  have aligned := (alignPointer_eq_self_iff _).mp reg.address_aligned
  apply BitVec.eq_of_toNat_eq
  rw [alignPointer_toNat, BitVec.toNat_add, BitVec.toNat_ofNat]
  omega

end

/-! ## The places that name no register -/

/-- A place of a block names no register when it lies behind the block's last. -/
theorem Reg.eq_unmapped_iff {block : Nat → Reg} {n i : Nat} (mapped : ∀ j < n, block j ≠ .unmapped)
    (unmapped : ∀ j, block (j + n) = .unmapped) : block i = .unmapped ↔ n ≤ i := by
  constructor
  · exact fun none => Nat.le_of_not_lt fun inside => mapped i inside none
  · intro behind
    obtain ⟨j, rfl⟩ := Nat.exists_eq_add_of_le' behind
    exact unmapped j

theorem Reg.ofGlobalIndex_unmapped_iff {i : Nat} : Reg.ofGlobalIndex i = .unmapped ↔ 12 ≤ i :=
  Reg.eq_unmapped_iff (fun j inside => by interval_cases j <;> nofun) fun _ => rfl

theorem Reg.ofControlIndex_unmapped_iff {r : RingNo} {i : Nat} : Reg.ofControlIndex r i = .unmapped ↔ 13 ≤ i :=
  Reg.eq_unmapped_iff (fun j inside => by interval_cases j <;> nofun) fun _ => rfl

theorem Reg.ofStatusIndex_unmapped_iff {r : RingNo} {i : Nat} : Reg.ofStatusIndex r i = .unmapped ↔ 15 ≤ i :=
  Reg.eq_unmapped_iff (fun j inside => by interval_cases j <;> nofun) fun _ => rfl

/-- Settles O9: a register is named by its place (`Reg.Names`), and each block ends in places that name none. -/
theorem registerAddressNamesRegister : Obligations.RegisterAddressNamesRegister := by
  refine ⟨fun reg k mapped hk => ⟨Reg.ofAddress_address hk mapped, Reg.alignPointer_address hk reg⟩, fun a => ?_⟩
  have names := Reg.names_ofAddress a
  generalize Reg.ofAddress a = reg at names ⊢
  cases names with
  | global i low place => rw [Reg.ofGlobalIndex_unmapped_iff]; omega
  | control r i low place => rw [Reg.ofControlIndex_unmapped_iff]; omega
  | status r i low place => rw [Reg.ofStatusIndex_unmapped_iff]; omega
  | beyond high => simp only [true_iff]; omega

/-- An aligned pointer at a register is that register's address (R163). -/
theorem Reg.address_ofAddress {a : BitVec 16} (aligned : alignPointer a = a) (mapped : Reg.ofAddress a ≠ .unmapped) :
    (Reg.ofAddress a).address = a := by
  rw [alignPointer_eq_self_iff] at aligned
  apply BitVec.eq_of_toNat_eq
  have names := Reg.names_ofAddress a
  generalize Reg.ofAddress a = reg at names mapped ⊢
  cases names with
  | global i low place =>
    have inside : i < 12 := Nat.lt_of_not_le (mt Reg.ofGlobalIndex_unmapped_iff.mpr mapped)
    have own : (Reg.ofGlobalIndex i).address.toNat = 4 * i := by interval_cases i <;> rfl
    omega
  | control r i low place =>
    have inside : i < 13 := Nat.lt_of_not_le (mt Reg.ofControlIndex_unmapped_iff.mpr mapped)
    have own : (Reg.ofControlIndex r i).address = controlAddress r (4 * i) := by interval_cases i <;> rfl
    rw [own, controlAddress, BitVec.toNat_ofNat]
    omega
  | status r i low place =>
    have inside : i < 15 := Nat.lt_of_not_le (mt Reg.ofStatusIndex_unmapped_iff.mpr mapped)
    have own : (Reg.ofStatusIndex r i).address = statusAddress r (4 * i) := by interval_cases i <;> rfl
    rw [own, statusAddress, BitVec.toNat_ofNat]
    omega
  | beyond high => exact absurd rfl mapped

/-! ## Fields of a written word -/

/-- The low bits of a word under zeros are the word under a mask. -/
theorem zeros_append_low {m n : Nat} (v : BitVec (m + n)) :
    0#m ++ v.extractLsb' 0 n = v &&& BitVec.ofNat (m + n) (2 ^ n - 1) := by
  apply BitVec.eq_of_getLsbD_eq
  intro i inside
  simp only [BitVec.getLsbD_append, BitVec.getLsbD_extractLsb', BitVec.getLsbD_and, BitVec.getLsbD_ofNat,
    Nat.testBit_two_pow_sub_one]
  split <;> simp_all

theorem OverrunPolicy.code_ofCode (c : BitVec 2) : (OverrunPolicy.ofCode c).code = if c = 3 then 0 else c := by
  revert c
  decide

theorem UnderrunPolicy.code_ofCode (c : BitVec 1) : (UnderrunPolicy.ofCode c).code = c := by
  revert c
  decide

/-! ## Structural registers -/

section
variable (c : Structural) (v : Word)

theorem Structural.read_write_highBytes :
    (c.write .highBytesAndExponents v).read .highBytesAndExponents = v &&& 0x1F1FFFFF := by
  simp (disch := omega) only [Structural.write, Structural.read, extract_append_high, extract_whole, Nat.sub_self]
  apply BitVec.eq_of_getLsbD_eq
  intro i hi
  simp only [BitVec.getLsbD_append, BitVec.getLsbD_extractLsb', BitVec.getLsbD_and]
  interval_cases i <;> simp

theorem Structural.read_write_of_ne {g h : StructuralReg} (ne : g ≠ h) : (c.write g v).read h = c.read h := by
  cases g <;> cases h
  case apertureBaseLow.apertureBaseLow | highBytesAndExponents.highBytesAndExponents
    | memoryBaseLow.memoryBaseLow | startOffset.startOffset => exact absurd rfl ne
  all_goals
    simp (disch := omega) only [Structural.write, Structural.read, extract_append_low, extract_append_high,
      extract_whole, Nat.sub_self]

end
section
variable (l : Live) (v : Word)

theorem Live.read_write_observer :
    (l.write .observerPoliciesLineQuota v).read .observerPoliciesLineQuota
      = if v.extractLsb' 16 2 = 3 then v &&& 0x3F34FFFF else v &&& 0x3F37FFFF := by
  simp only [Live.write, Live.read, OverrunPolicy.code_ofCode, UnderrunPolicy.code_ofCode]
  split
  all_goals
    apply BitVec.eq_of_getLsbD_eq
    intro i hi
    simp only [BitVec.getLsbD_append, BitVec.getLsbD_extractLsb', BitVec.getLsbD_and]
    interval_cases i <;> simp

theorem Live.read_write_of_ne {g h : LiveReg} (ne : g ≠ h) : (l.write g v).read h = l.read h := by
  cases g <;> cases h
  case producerConsumerMasks.producerConsumerMasks | observerPoliciesLineQuota.observerPoliciesLineQuota
    | highMark.highMark | lowMark.lowMark | timeoutKindMask.timeoutKindMask => exact absurd rfl ne
  all_goals rfl

end

/-- Settles O10: a register's fields are read from the bits that they are written from, and the zeros between them mask
the other bits. -/
theorem ringRegistersReadBack : Obligations.RingRegistersReadBack := by
  intro c l v
  have joined : 0#8 ++ v.extractLsb' 16 8 ++ v.extractLsb' 0 16 = 0#8 ++ v.extractLsb' 0 24 :=
    BitVec.append_assoc.trans (congrArg (fun low => 0#8 ++ low) (extract_append_extract v 0 8 16))
  refine ⟨⟨?_, c.read_write_highBytes v, ?_, rfl, fun g h => c.read_write_of_ne v⟩,
    (extract_append_extract v 0 16 16).trans (extract_whole v), l.read_write_observer v,
    zeros_append_low (m := 7) (n := 25) v, zeros_append_low (m := 7) (n := 25) v,
    joined.trans (zeros_append_low (m := 8) (n := 24) v), fun g h => l.read_write_of_ne v⟩
  · simp (disch := omega) only [Structural.write, Structural.read, extract_append_low, extract_whole]
  · simp (disch := omega) only [Structural.write, Structural.read, extract_append_low, extract_whole]

end Sys2Proof.Machine
end

section
/-! The resets' other half (O4, O5), and the management port: a write at the pointer (O47), the pointer itself (O48), a
read at the pointer and the words of the registers (O49). -/

namespace Sys2Proof.Machine

/-! ## A hardware reset -/

theorem i2cAddressOf_toNat (a1 a0 : Bool) : (i2cAddressOf a1 a0).toNat = 0x58 + 2 * a1.toNat + a0.toNat := by
  cases a1 <;> cases a0 <;> rfl

/-- Settles O4: each value is the one that `State.reset` writes, but for the I2C address of the pins
(`i2cAddressOf_toNat`). -/
theorem hardwareResetSetsPart : Obligations.HardwareResetSetsPart := by
  refine fun a1 a0 s => ⟨_, rfl, rfl, rfl, ⟨i2cAddressOf_toNat a1 a0, rfl⟩, rfl, ⟨rfl, rfl, rfl, rfl⟩,
    ⟨rfl, rfl, rfl, rfl⟩, ⟨rfl, rfl⟩,
    ⟨fun u => Vector.getElem_replicate .., fun m => Vector.getElem_replicate .., rfl, rfl⟩, ⟨rfl, rfl, rfl⟩,
    ⟨rfl, rfl, rfl, rfl, rfl⟩, fun r => ?_⟩
  exact congrArg Ring.snapshot (State.ring_reset r)

/-! ## A part held in reset -/

section
variable {s : State} (held : s.inReset = true)
include held

theorem State.outOfReset_held (f : State → State) : s.outOfReset f = s := if_pos held

theorem State.completeWrite_held (a : BitVec 16) (reg : Reg) (v : Word) : s.completeWrite a reg v = s.ignoreBus :=
  if_pos held

theorem State.addressed_held (target : BitVec 7) (f : State → State) : s.addressed target f = s.ignoreBus :=
  if_pos (Or.inl held)

end

/-- Settles O5: a part held in reset takes no event of its own and acknowledges no address. -/
theorem heldInResetDoesNothing : Obligations.HeldInResetDoesNothing := by
  refine ⟨fun cut s => ⟨_, rfl, rfl, rfl, rfl, rfl, rfl⟩, fun c s held no_reset no_hold => ?_⟩
  cases c with
  | hardwareReset a1 a0 => exact absurd rfl (no_reset a1 a0)
  | heldInReset cut => exact absurd rfl (no_hold cut)
  | registerWrite | registerPointerSet | partialWriteEnd | registerRead =>
    exact Or.inr (congrArg _ (State.addressed_held held _ _))
  | requestAcceptance | writeAdmission | readAdmission | reAdmission | issueHead | memoryResponse | drainEnd | clearEnd
  | tick | expiry | responseTimeout | responseDelivery | partResetCompletion =>
    exact Or.inl (congrArg _ (State.outOfReset_held held _))
  | _ => exact Or.inr (congrArg _ (State.completeWrite_held held _ _ _))

/-! ## Transactions on the bus -/

section
variable {s : State} {target : BitVec 7} (f : State → State)

theorem State.addressed_own (h0 : s.inReset = false) (own : target = s.mgmt.i2cAddress) :
    s.addressed target f = f s := by
  simp [State.addressed, h0, own]

theorem State.addressed_elsewhere (other : target ≠ s.mgmt.i2cAddress) : s.addressed target f = s.ignoreBus :=
  if_pos (Or.inr other)

end

/-- The two halves of an address, high byte first, make it up again (R164). -/
theorem registerAddress_bytes (a : BitVec 16) :
    registerAddress { high := a.extractLsb' 8 8, low := a.extractLsb' 0 8 } = a :=
  (extract_append_extract a 0 8 8).trans (extract_whole a)

/-- Settles O48: the pointer takes the address bytes with the two low bits cleared (`alignPointer_eq_mask`), and the end
of a write transaction sets a flag or nothing. -/
theorem pointerAndStops : Obligations.PointerAndStops := by
  refine fun s target h0 => ⟨fun own => ⟨fun a => ?_, fun stop whole => ?_, fun stop cut => ?_⟩,
    fun other group bytes stop n c sent => ?_⟩
  · refine congrArg _ ((State.addressed_own _ h0 own).trans ?_)
    rw [registerAddress_bytes, alignPointer_eq_mask]
    rfl
  · refine congrArg _ ((State.addressed_own _ h0 own).trans ?_)
    rcases whole with rfl | rfl | rfl <;> rfl
  · refine congrArg _ ((State.addressed_own _ h0 own).trans ?_)
    rcases cut with ⟨b, rfl⟩ | ⟨l, rfl⟩ <;> rfl
  · rcases sent with rfl | rfl | rfl | rfl <;> exact congrArg _ (State.addressed_elsewhere _ other)

/-! ## A write at the pointer -/

/-- A word as the four bytes of a data group, least significant first (R164). -/
def wordGroup (v : Word) : DataGroup where
  first := v.extractLsb' 0 8
  second := v.extractLsb' 8 8
  third := v.extractLsb' 16 8
  fourth := v.extractLsb' 24 8

theorem groupWord_wordGroup (v : Word) : groupWord (wordGroup v) = v := by
  have top : v.extractLsb' 24 8 ++ v.extractLsb' 16 8 = v.extractLsb' 16 16 := extract_append_extract v 16 8 8
  have upper : v.extractLsb' 16 16 ++ v.extractLsb' 8 8 = v.extractLsb' 8 24 := extract_append_extract v 8 16 8
  have whole : v.extractLsb' 8 24 ++ v.extractLsb' 0 8 = v.extractLsb' 0 32 := extract_append_extract v 0 24 8
  rw [groupWord, wordOfBytes, wordGroup, top, upper, whole, extract_whole]

theorem exec_registerWrite {s : State} (h0 : s.inReset = false) (v : Word) :
    exec (.registerWrite s.mgmt.i2cAddress (wordGroup v)) s
      = .next ((s.writeReg (Reg.ofAddress s.mgmt.pointer) v).acknowledge (s.mgmt.pointer + 4)) := by
  refine congrArg _ ((State.addressed_own _ h0 rfl).trans ?_)
  rw [groupWord_wordGroup, State.completeWrite, if_neg (by simp [h0])]

/-- At a register that an aligned pointer names, it is the register's complete write (log entry 8). -/
theorem exec_registerWrite_writeAt {s : State} (h0 : s.inReset = false) (aligned : s.PointerAligned) (v : Word)
    (mapped : Reg.ofAddress s.mgmt.pointer ≠ .unmapped) :
    exec (.registerWrite s.mgmt.i2cAddress (wordGroup v)) s
      = .next (s.writeAt (Reg.ofAddress s.mgmt.pointer) v) := by
  rw [exec_registerWrite h0, State.writeAt_of_running _ _ _ h0, Reg.address_ofAddress aligned mapped]

/-- The command register takes the code of a written word alone (R28, 10.7). -/
theorem State.writeAt_command_congr (s : State) (r : RingNo) {v w : Word}
    (code : (v.extractLsb' 0 4).toNat = (w.extractLsb' 0 4).toNat) :
    s.writeAt (.command r) v = s.writeAt (.command r) w := by
  simp only [State.writeAt, State.completeWrite, State.writeReg_command, BitVec.eq_of_toNat_eq code]

/-- A control write: the lost flag, then RESET_PART (R168; their order is log entry 7). -/
theorem State.writeAt_globalControl {s : State} (h0 : s.inReset = false) (v : Word) :
    s.writeAt .control v = (s.writeControl v).acknowledge 0x008 := State.writeAt_of_running s .control v h0

/-- Settles O47: the pointer is the address of the register that it names (`Reg.address_ofAddress`), and the row of each
register is the complete write at that address. -/
theorem registerWriteIsTheNamedWrite : Obligations.RegisterWriteIsTheNamedWrite := by
  intro s v h0 aligned write
  have taken : write = .next ((s.writeReg (Reg.ofAddress s.mgmt.pointer) v).acknowledge (s.mgmt.pointer + 4)) :=
    exec_registerWrite h0 v
  have atRegister : Reg.ofAddress s.mgmt.pointer ≠ .unmapped →
      write = .next (s.writeAt (Reg.ofAddress s.mgmt.pointer) v) := exec_registerWrite_writeAt h0 aligned v
  generalize Reg.ofAddress s.mgmt.pointer = reg at taken atRegister ⊢
  cases reg with
  | unmapped | identification | tickCount | occupancy | eventHead0 | eventHead1 | status => exact taken
  | control =>
    rw [atRegister nofun, State.writeAt_globalControl h0, State.writeControl]
    cases v.getLsbD 1 <;> cases v.getLsbD 8
    case false.false => rfl
    case true.false => exact congrArg _ (State.writeAt_globalControl h0 0x2).symm
    case false.true => exact (exec_resetPart h0).symm
    case true.true => exact (exec_resetPart (s := s.clearLost) h0).symm
  | command r =>
    refine (atRegister nofun).trans ?_
    split
    case h_8 =>
      exact congrArg _ (s.writeAt_command_congr r (by simp))
    all_goals
      rename_i code
      exact congrArg _ (s.writeAt_command_congr r code)
  | _ => exact atRegister nofun

/-! ## A read at the pointer -/

/-- A read of one to four bytes (R165). -/
theorem exec_registerRead {s : State} (h0 : s.inReset = false) {n : Nat} (most : n ≤ 4) :
    exec (.registerRead s.mgmt.i2cAddress n) s = .next { s with mgmt := { s.mgmt with
      acknowledged := true
      pointer := if n = 4 then s.mgmt.pointer + 4 else s.mgmt.pointer
      returned := (wordBytes (s.readReg (Reg.ofAddress s.mgmt.pointer))).take n } } := by
  have pointer : (if n < 4 then s.mgmt.pointer else s.mgmt.pointer + 4)
      = if n = 4 then s.mgmt.pointer + 4 else s.mgmt.pointer := by
    rcases most.lt_or_eq with fewer | rfl
    · rw [if_pos fewer, if_neg fewer.ne]
    · rfl
  refine congrArg _ ((State.addressed_own _ h0 rfl).trans ?_)
  rw [State.readAtPointer, pointer]
  rfl

/-! ## Fields of a read word -/

/-- A field under zeros is the field at full width. -/
theorem zeros_append {m n : Nat} (x : BitVec n) : 0#m ++ x = x.setWidth (m + n) := by
  apply BitVec.eq_of_toNat_eq
  rw [BitVec.toNat_append, BitVec.toNat_setWidth, BitVec.toNat_ofNat, Nat.zero_mod, Nat.zero_shiftLeft, Nat.zero_or,
    Nat.mod_eq_of_lt (x.isLt.trans_le (Nat.pow_le_pow_right (by decide) (Nat.le_add_left n m)))]

/-- A number in a field under zeros (10.7). -/
theorem zeros_append_ofNat {m n : Nat} (k : Nat) : 0#m ++ BitVec.ofNat n k = BitVec.ofNat (m + n) (k % 2 ^ n) := by
  rw [zeros_append]
  apply BitVec.eq_of_toNat_eq
  simp

/-- The two low fields of a word together. -/
theorem extract_append_two {a m n : Nat} (x : BitVec a) (y : BitVec m) (z : BitVec n) :
    (x ++ y ++ z).extractLsb' 0 (m + n) = y ++ z := by
  apply BitVec.eq_of_getLsbD_eq
  intro i inside
  simp only [BitVec.getLsbD_extractLsb', BitVec.getLsbD_append, Nat.zero_add]
  split
  · simp [inside]
  · rw [if_pos (by omega)]
    simp [inside]

section
variable (s : State) (r : RingNo)

/-! ## The global registers -/

theorem State.readReg_passFault_bit (i : Nat) : (s.readReg .passFault).getLsbD i = true
    ↔ (i = 0 ∧ s.mgmt.passFaultEnable = true) ∨ (i = 4 ∧ s.mgmt.passFaultLine.getLsbD 0 = true)
      ∨ (i = 5 ∧ s.mgmt.passFaultLine.getLsbD 1 = true) := by
  simp only [State.readReg, BitVec.getLsbD_append, BitVec.getLsbD_ofBool]
  rcases i with _ | _ | _ | _ | _ | _ | i <;> simp

theorem ErrorFlags.word_bit (f : ErrorFlags) (i : Nat) : f.word.getLsbD i = true
    ↔ (i = 0 ∧ f.addr = true) ∨ (i = 1 ∧ f.locked = true) ∨ (i = 2 ∧ f.partialEnd = true)
      ∨ (i = 3 ∧ f.popMismatch = true) := by
  simp only [ErrorFlags.word, BitVec.getLsbD_append, BitVec.getLsbD_ofBool]
  rcases i with _ | _ | _ | _ | i <;> simp

theorem State.readReg_control_bit (i : Nat) : (s.readReg .control).getLsbD i = true
    ↔ (i = 0 ∧ s.part = .resetting) ∨ (i = 1 ∧ s.events.lost = true) := by
  simp only [State.readReg, BitVec.getLsbD_append, BitVec.getLsbD_ofBool]
  rcases i with _ | _ | i <;> cases s.part <;> simp [PartState.code]

/-- The five counts (R168). -/
theorem State.occupancy_fields :
    s.occupancy.extractLsb' 0 7 = BitVec.ofNat 7 s.sys.inUse
    ∧ s.occupancy.extractLsb' 7 6 = BitVec.ofNat 6 s.pool.entries.length
    ∧ s.occupancy.extractLsb' 13 6 = BitVec.ofNat 6 s.events.records.length
    ∧ s.occupancy.extractLsb' 19 6 = BitVec.ofNat 6 (s.mem.countOf .live)
    ∧ s.occupancy.extractLsb' 25 6 = BitVec.ofNat 6 (s.mem.countOf .orphan) := by
  unfold State.occupancy
  refine ⟨?_, ?_, ?_, ?_, ?_⟩ <;>
    simp (disch := omega) only [extract_append_low, extract_append_high, extract_whole, Nat.reduceSub, Nat.sub_self]

/-! ## The event head -/

/-- A count above 7FFFh is presented as 7FFFh (R124). -/
theorem EventCount.field_eq (c : EventCount) : c.field = match c with
    | .absent => 0
    | .bytes n => if n < 0x7FFF then BitVec.ofNat 15 n else 0x7FFF
    | .source m t => 0#5 ++ t ++ BitVec.ofNat 4 m.val := by
  cases c with
  | bytes n =>
    dsimp only [EventCount.field]
    split
    · rw [Nat.min_eq_left (by omega)]
    · rw [Nat.min_eq_right (by omega)]
      rfl
  | _ => rfl

theorem EventRecord.word0_fields (e : EventRecord) :
    e.word0.extractLsb' 0 8 = e.sequence
    ∧ e.word0.extractLsb' 8 4 = BitVec.ofNat 4 e.kind.code
    ∧ e.word0.extractLsb' 12 4 = BitVec.ofNat 4 ((e.ring.map Fin.val).getD 0)
    ∧ e.word0.getLsbD 16 = e.afterLoss
    ∧ e.word0.extractLsb' 17 15 = e.count.field := by
  unfold EventRecord.word0
  refine ⟨?_, ?_, ?_, ?_, ?_⟩
  case refine_4 =>
    simp only [BitVec.getLsbD_append, BitVec.getLsbD_ofBool]
    simp
  all_goals
    simp (disch := omega) only [extract_append_low, extract_append_high, extract_whole, Nat.reduceSub, Nat.sub_self]

theorem EventRecord.word1_fields (e : EventRecord) :
    e.word1.extractLsb' 0 30 = BitVec.ofNat 30 (e.position.getD 0) ∧ e.word1.extractLsb' 30 2 = e.line := by
  unfold EventRecord.word1
  constructor <;> simp (disch := omega) only [extract_append_low, extract_append_high, extract_whole, Nat.sub_self]

/-! ## The registers of a ring -/

theorem Ring.commandStatus_fields (x : Ring) :
    x.commandStatus.extractLsb' 0 2 = x.outcome.code
    ∧ x.commandStatus.extractLsb' 4 3 = x.outcome.reasonCode
    ∧ x.commandStatus.getLsbD 8 = x.state.busy := by
  unfold Ring.commandStatus
  refine ⟨?_, ?_, ?_⟩
  case refine_3 =>
    simp only [BitVec.getLsbD_append, BitVec.getLsbD_ofBool]
    simp
  all_goals
    simp (disch := omega) only [extract_append_low, extract_append_high, extract_whole, Nat.reduceSub, Nat.sub_self]

theorem RingState.busy_iff (d : RingState) : d.busy = true ↔ d = .draining ∨ d = .clearing := by
  cases d <;> decide

theorem Ring.levelSideState_fields (x : Ring) :
    (x.readStatus .levelSideState).extractLsb' 0 25 = BitVec.ofNat 25 x.snapshot.level
    ∧ (x.readStatus .levelSideState).extractLsb' 25 3 = 0
    ∧ ((x.readStatus .levelSideState).getLsbD 28 = true ↔ x.snapshot.side = .high)
    ∧ (x.readStatus .levelSideState).extractLsb' 29 3 = x.snapshot.state.code := by
  unfold Ring.readStatus
  refine ⟨?_, ?_, ?_, ?_⟩
  case refine_3 =>
    simp only [BitVec.getLsbD_append]
    cases x.snapshot.side <;> simp [Side.code]
  all_goals
    simp (disch := omega) only [extract_append_low, extract_append_high, extract_whole, Nat.reduceSub, Nat.sub_self]
  rfl

theorem Ring.counts_fields (x : Ring) :
    (x.readStatus .counts).extractLsb' 0 8 = BitVec.ofNat 8 (x.snapshot.fillCount % 16)
    ∧ (x.readStatus .counts).extractLsb' 8 8 = BitVec.ofNat 8 (x.snapshot.drainCount % 16)
    ∧ (x.readStatus .counts).extractLsb' 16 8 = BitVec.ofNat 8 (x.snapshot.heldCount % 64)
    ∧ (x.readStatus .counts).extractLsb' 24 8 = if x.snapshot.pending then 1 else 0 := by
  unfold Ring.readStatus
  refine ⟨?_, ?_, ?_, ?_⟩
  · exact (extract_append_two (m := 4) _ _ _).trans (zeros_append_ofNat _)
  · simp (disch := omega) only [extract_append_high, Nat.reduceSub, Nat.sub_self]
    exact (extract_append_two (m := 4) _ _ _).trans (zeros_append_ofNat _)
  · simp (disch := omega) only [extract_append_high, Nat.reduceSub, Nat.sub_self]
    exact (extract_append_two (m := 2) _ _ _).trans (zeros_append_ofNat _)
  · simp (disch := omega) only [extract_append_high, Nat.reduceSub, Nat.sub_self, extract_whole]
    cases x.snapshot.pending <;> rfl

end

/-- Settles O49: the fields of each word (10.7), each cut out of the append that makes the word. -/
theorem registerReadReturnsCapturedWord : Obligations.RegisterReadReturnsCapturedWord := by
  refine ⟨fun s n h0 _ most => exec_registerRead h0 most, fun s => ⟨⟨rfl, rfl, rfl, rfl⟩,
    ⟨zeros_append _, zeros_append _, zeros_append _⟩, s.readReg_passFault_bit, s.mgmt.flags.word_bit,
    s.readReg_control_bit, s.occupancy_fields, fun empty => ?_, fun e rest held => ?_,
    fun r => ⟨?_, ?_, ?_, ?_, fun i => ?_⟩⟩⟩
  · simp only [State.readReg, empty]
    exact ⟨rfl, rfl⟩
  · obtain ⟨sequence, kind, ring, loss, count⟩ := e.word0_fields
    obtain ⟨position, line⟩ := e.word1_fields
    have head0 : s.readReg .eventHead0 = e.word0 := by simp only [State.readReg, held]; rfl
    have head1 : s.readReg .eventHead1 = e.word1 := by simp only [State.readReg, held]; rfl
    rw [head0, head1]
    exact ⟨sequence, kind, ring.trans (by cases e.ring <;> rfl), loss, count.trans e.count.field_eq,
      position.trans (by cases e.position <;> rfl), line⟩
  · obtain ⟨outcome, reason, busy⟩ := (s.ring r).commandStatus_fields
    refine ⟨outcome.trans ?_, reason.trans ?_, ?_⟩
    · cases (s.ring r).outcome <;> rfl
    · cases (s.ring r).outcome <;> rfl
    · rw [← RingState.busy_iff, ← busy]
      rfl
  · exact ⟨fun _ => rfl, fun _ => rfl, zeros_append _, zeros_append _, zeros_append _⟩
  · obtain ⟨level, gap, side, state⟩ := (s.ring r).levelSideState_fields
    refine ⟨zeros_append_ofNat _, zeros_append_ofNat _, zeros_append_ofNat _, zeros_append_ofNat _, level, gap, side,
      state.trans ?_, (s.ring r).counts_fields⟩
    cases (s.ring r).snapshot.state <;> rfl
  · exact zeros_append_ofNat _
  · cases listed : (s.ring r).poison[i.val]? with
    | none => simp only [State.readReg, Ring.readStatus, listed, and_self]
    | some e =>
      simp only [State.readReg, Ring.readStatus, listed]
      exact ⟨zeros_append_ofNat _, zeros_append_ofNat _⟩

end Sys2Proof.Machine
end

section
/-! The timebase (O35): cycles that only count, the tick, and what is due as it comes. -/

namespace Sys2Proof.Machine

/-! ## Cycles -/

section
variable (s : State)

/-- Cycles add up (R169). -/
theorem State.refclkCycles_add (m n : Nat) : s.refclkCycles (m + n) = (s.refclkCycles m).refclkCycles n := by
  induction m generalizing s with
  | zero => rw [Nat.zero_add]; rfl
  | succ m ih =>
    rw [Nat.add_right_comm]
    exact ih s.refclkCycle

/-- Cycles that do not reach the end of the interval are counted (R169). -/
theorem State.refclkCycles_within {n : Nat} (within : s.time.cycles + n ≤ s.time.intervalDivider.toNat) :
    s.refclkCycles n = { s with time := { s.time with cycles := s.time.cycles + n } } := by
  induction n generalizing s with
  | zero => rfl
  | succ n ih =>
    have counted : s.refclkCycle = { s with time := { s.time with cycles := s.time.cycles + 1 } } :=
      if_neg (by omega)
    rw [State.refclkCycles, counted, ih _ (by dsimp only; omega)]
    dsimp only
    rw [Nat.add_right_comm, Nat.add_assoc]

/-- The cycle that reaches the interval's divider + 1 is a tick (R169). -/
theorem State.refclkCycle_tick (full : s.time.cycles = s.time.intervalDivider.toNat) :
    s.refclkCycle = s.settleAdvance.advanceCount := if_pos full.ge

theorem State.settleAdvance_advanceCount : s.settleAdvance.advanceCount = { s.settleAdvance with
    time := { s.time with count := s.time.count + 1, cycles := 0, intervalDivider := s.time.divider } } := by
  rw [State.advanceCount, State.settleAdvance_time]

/-! ## What is due as the tick comes -/

/-- The pool has an entry to answer at the present tick count (R100). -/
def State.PoolDue : Prop := ∃ h ∈ s.pool.entries, h.state = .waiting ∧ h.deadline = s.time.count

/-- The memory port has an operation to report at the present tick count (R158). -/
def State.MemoryDue : Prop := ∃ o ∈ s.mem.outstanding, o.condition = .live ∧ o.deadline = s.time.count

theorem State.any_expires_iff : s.pool.entries.any s.expires = true ↔ s.PoolDue := by
  simp [State.expires, State.PoolDue]

theorem State.expiringOperations_nil_iff : s.expiringOperations = [] ↔ ¬ s.MemoryDue := by
  simp [State.expiringOperations, State.MemoryDue, List.filter_eq_nil_iff]

variable {s}

/-- An expiry with nothing due changes nothing (R100). -/
theorem State.takeExpiries_idle (idle : ¬ s.PoolDue) : s.takeExpiries = s := by
  have none_due : s.pool.entries.filter s.expires = [] := by
    rw [← State.any_expires_iff, List.any_eq_true] at idle
    exact List.filter_eq_nil_iff.mpr fun h mem due => idle ⟨h, mem, due⟩
  have pool : s.pool.remove [] = s.pool := by simp [HoldPool.remove]
  simp only [State.takeExpiries, State.answerHeld, none_due, List.foldl_nil, pool]

/-- A response timeout with nothing due changes nothing (R158). -/
theorem State.takeTimeouts_idle (idle : ¬ s.MemoryDue) : s.takeTimeouts = s := by
  rw [State.takeTimeouts, s.expiringOperations_nil_iff.mpr idle]
  rfl

/-- With at most one taker due, the pool's part and the memory port's follow one another (R100, R158). -/
theorem State.settleAdvance_eq (one : ¬ s.PoolDue ∨ ¬ s.MemoryDue) :
    s.settleAdvance = s.takeExpiries.takeTimeouts := by
  refine if_neg fun ⟨pool, memory⟩ => ?_
  exact one.elim (fun idle => idle (s.any_expires_iff.mp pool))
    fun idle => memory (s.expiringOperations_nil_iff.mpr idle)

/-- With nothing due at the memory port, the advance is the pool's. -/
theorem State.settleAdvance_pool (idle : ¬ s.MemoryDue) : s.settleAdvance = s.takeExpiries := by
  rw [State.settleAdvance_eq (Or.inr idle), State.takeTimeouts_idle]
  rwa [State.MemoryDue, State.takeExpiries_mem, State.takeExpiries_time]

/-- With nothing due in the pool, the advance is the memory port's. -/
theorem State.settleAdvance_memory (idle : ¬ s.PoolDue) : s.settleAdvance = s.takeTimeouts := by
  rw [State.settleAdvance_eq (Or.inl idle), State.takeExpiries_idle idle]

end

/-! ## TICK -/

theorem exec_tick {s : State} (h0 : s.inReset = false) (n : Nat) : exec (.tick n) s = .next (s.refclkCycles n) :=
  congrArg _ (State.outOfReset_of h0 _)

theorem exec_expiry {s : State} (h0 : s.inReset = false) : exec .expiry s = .next s.takeExpiries :=
  congrArg _ (State.outOfReset_of h0 _)

theorem exec_responseTimeout {s : State} (h0 : s.inReset = false) : exec .responseTimeout s = .next s.takeTimeouts :=
  congrArg _ (State.outOfReset_of h0 _)

/-- Settles O35: a tick settles what the advance before it asked, and begins the next interval. -/
theorem tickAfterDividerPlusOne : Obligations.TickAfterDividerPlusOne := by
  intro s h0
  refine ⟨fun n within => ?_, ?_, fun m n t next => ?_⟩
  · rw [exec_tick h0, s.refclkCycles_within within]
  · intro full ticked poolDue memoryDue
    have tick : exec (.tick 1) s = .next { s.settleAdvance with time := ticked } := by
      rw [exec_tick h0, State.refclkCycles, State.refclkCycle_tick s full, s.settleAdvance_advanceCount]
      rfl
    refine ⟨_, tick, rfl, fun pool memory => ?_, fun memory e next => ?_, fun pool e next => ?_⟩
    · rw [State.settleAdvance_memory pool, State.takeTimeouts_idle memory]
    · cases (exec_expiry h0).symm.trans next
      rw [State.settleAdvance_pool memory]
    · cases (exec_responseTimeout h0).symm.trans next
      rw [State.settleAdvance_memory pool]
  · rw [exec_tick h0] at next ⊢
    cases next
    rw [exec_tick ((s.refclkCycles_inReset m).trans h0), s.refclkCycles_add]

end Sys2Proof.Machine
end

section
/-! The queue of commands (O1): a step's two cases, by what waits in the queue. -/

namespace Sys2Proof.Machine

/-- The front command is taken off the queue before it is executed. -/
theorem step_of_pending_cons {s : State} {c : Instr} {rest : List Instr} (waiting : s.pending = c :: rest) :
    step s = exec c { s with pending := rest } := by
  rw [step, waiting]

/-- With no command waiting the part idles. -/
theorem step_of_pending_nil {s : State} (idle : s.pending = []) : step s = .next s := by
  rw [step, idle]

/-- Settles O1: the two cases of a step, a front command and an empty queue. -/
theorem stepTakesFrontCommand : Obligations.StepTakesFrontCommand :=
  ⟨fun _ _ _ waiting => step_of_pending_cons waiting, fun _ idle => step_of_pending_nil idle⟩

end Sys2Proof.Machine
end
